-- ==== Sys2Proof/Word.lean ====
section
/-! DEFINITION. The word types: bytes, the 16-bit and 32-bit fields, byte sequences, and the
16-byte block of the cipher unit held column by column. -/

namespace Sys2Proof

/-- A byte (R13). -/
abbrev Byte := BitVec 8

/-- A 16-bit unsigned field (`payloadLength`, R20). -/
abbrev Half := BitVec 16

/-- A 32-bit unsigned field (`sequenceNumber`, `checksum`, R20). -/
abbrev Word := BitVec 32

/-- A byte sequence; the head is index 0, the first byte transmitted or received (R13). -/
abbrev Bytes := List Byte

/-- A column of a cipher block: the 4-byte word `[b[4c], b[4c+1], b[4c+2], b[4c+3]]` (R132). -/
structure Col where
  r0 : Byte
  r1 : Byte
  r2 : Byte
  r3 : Byte
  deriving DecidableEq, Repr, Inhabited

/-- A 16-byte block `b[0..15]`, filled column by column (R132); also the 128-bit registers `KEY`, `fb`, `ks`. -/
structure Block where
  c0 : Col
  c1 : Col
  c2 : Col
  c3 : Col
  deriving DecidableEq, Repr, Inhabited

end Sys2Proof
end

