-- ==== Sys2Proof/Config.lean ====
section
/-! DEFINITION. What is fixed for one machine: the constants the source fixes (R9), the parameters
(R10) as plain data that State carries, the values the model takes for the OPEN parameters at reset,
and the free values. -/

namespace Sys2Proof

/-- `KIND_DATA`, the kind byte of a Data packet (R9, R83). -/
def kindData : Byte := 0x01#8

/-- `KIND_ACK`, the kind byte of an Acknowledgment packet (R9, R83). -/
def kindAck : Byte := 0x02#8

/-- `SEQ_FIRST`, the sequence number of the first data packet of a transfer (R9). -/
def seqFirst : Word := 1#32

/-- `CHUNK_BYTES`, the largest chunk (R9). -/
def chunkBytes : Nat := 1024

/-- `HEADER_BYTES`, the fixed fields of a frame (R9). -/
def headerBytes : Nat := 11

/-- `LEN_MAX`, the largest value of `payloadLength` (R9). -/
def lenMax : Nat := 65535

/-- `BLOCK_BYTES`, the cipher's block size (R10, R130). -/
def blockBytes : Nat := 16

/-- `RX_FRAMING` (R10): one read is one frame (R178), or reads are reassembled (R179). -/
inductive Framing where
  | perRead
  | reassemble
  deriving DecidableEq, Repr, Inhabited

/-- `BlockEnc` (R10, R131): the block function as a configuration field. Its decided value is AES-128 (D4, R142); in its
place any other total function of a key and a block, named by a number (log entry 28). -/
inductive BlockFunction where
  | aes128
  | other (n : Nat)
  deriving DecidableEq, Repr, Inhabited

/-- The build-time parameters of R10 that a rule reads. `N_CTX` is the number of contexts State holds. -/
structure Params where
  /-- `BlockEnc`. -/
  blockEnc    : BlockFunction
  /-- `RX_FRAMING`. -/
  rxFraming   : Framing
  /-- `RX_BUF_BYTES`. -/
  rxBufBytes  : Nat
  /-- `TICK_HZ`. -/
  tickHz      : Nat
  /-- `RX_AUTO_DECRYPT`. -/
  autoDecrypt : Bool
  deriving DecidableEq, Repr, Inhabited

/-- `ACK_TIMEOUT_TICKS = 5 * TICK_HZ` (R10, R280). -/
def Params.ackTimeoutTicks (P : Params) : Nat := 5 * P.tickHz

namespace Config

/-- `KEY` as configured (R10, R23): OPEN, so no proof can see it (log entry 6). -/
opaque key : Block

/-- `N_CTX` at reset: OPEN in the spec. DESIGN CHOICE (log entry 7), unsafe. -/
def nCtx : Nat := 3

/-- The parameters at reset: `BlockEnc`, `RX_FRAMING` and `RX_AUTO_DECRYPT` as R10 decides them;
`RX_BUF_BYTES` and `TICK_HZ`, OPEN in the spec, are a DESIGN CHOICE (log entry 7), unsafe. -/
def params : Params :=
  { blockEnc := .aes128, rxFraming := .reassemble, rxBufBytes := 2048, tickHz := 1, autoDecrypt := true }

/-- The block functions other than AES-128 (R131, U17): key, block, result. Nothing constrains them (log entry 28). -/
opaque blockFunction : Nat → Block → Block → Block

/-- Free values of the working registers (R34 to R36, R50, U2): the arguments are the unit, the draw and the
register. Nothing constrains them (log entry 5). -/
opaque freeByte : Nat → Nat → Nat → Byte

/-- Free 16-bit value: unit, draw, register (log entry 5). -/
opaque freeHalf : Nat → Nat → Nat → Half

/-- Free 32-bit value: unit, draw, register (log entry 5). -/
opaque freeWord : Nat → Nat → Nat → Word

/-- Free 128-bit value: unit, draw, register (log entry 5). -/
opaque freeBlock : Nat → Nat → Nat → Block

/-- Free buffer contents: unit, draw, buffer (log entry 5). -/
opaque freeBytes : Nat → Nat → Nat → Bytes

end Config

end Sys2Proof
end

