-- ==== Sys2Proof/Syntax.lean ====
section
/-! DEFINITION. What arrives at FTCORE and is decoded: the packet record, the command message, and the
one inductive of instructions, a constructor per row of spec/opcode_table.json. -/

namespace Sys2Proof

/-- A packet (R20). `kind` is the raw byte, all 256 values (90_conflicts.md C5). -/
structure Packet where
  kind           : Byte
  sequenceNumber : Word
  checksum       : Word
  payloadLength  : Half
  payload        : Bytes
  deriving DecidableEq, Repr

/-- An argument of a command message, passed as a value (R90). DESIGN CHOICE, log entry 1. -/
inductive Arg where
  | bytes (b : Bytes)
  | word (v : Word)
  | packet (p : Packet)
  deriving DecidableEq, Repr

/-- A command message on the CMD port (R90): the operation code, the context number, and the arguments as values.
DESIGN CHOICE, log entries 1 and 2. -/
structure CmdMsg where
  op   : BitVec 4
  ctx  : Nat
  args : List Arg
  deriving DecidableEq, Repr

/-- The instructions: the three frame rows, the ten commands and the six reserved command codes of
spec/opcode_table.json (R81, R91, R92). Every command keeps the `ctx` of its message, which the eight unit operations
ignore (R90). -/
inductive Instr where
  /-- DATA: a frame with kind byte 0x01 (R83). -/
  | data (seq cks : Word) (len : Half) (payload : Bytes)
  /-- ACKF: a frame with kind byte 0x02 (R83). -/
  | ackf (seq cks : Word) (len : Half) (payload : Bytes)
  /-- UNKNOWN: a frame with any other kind byte (R83). -/
  | unknown (kind : Byte) (seq cks : Word) (len : Half) (payload : Bytes)
  /-- CRC32, op 0x1. -/
  | crc32 (ctx : Nat) (payload : Bytes)
  /-- VERIFY, op 0x2. -/
  | verify (ctx : Nat) (p : Packet)
  /-- ENCRYPT, op 0x3. -/
  | encrypt (ctx : Nat) (plaintext : Bytes)
  /-- DECRYPT, op 0x4. -/
  | decrypt (ctx : Nat) (d : Bytes)
  /-- ENCODE, op 0x5. -/
  | encode (ctx : Nat) (p : Packet)
  /-- DECODE, op 0x6. -/
  | decode (ctx : Nat) (b : Bytes)
  /-- MKDATA, op 0x7. -/
  | mkdata (ctx : Nat) (seq : Word) (payload : Bytes)
  /-- MKACK, op 0x8. -/
  | mkack (ctx : Nat) (seq : Word)
  /-- SEND, op 0x9. -/
  | send (ctx : Nat)
  /-- SERVE, op 0xA. -/
  | serve (ctx : Nat)
  /-- RESERVED_0. -/
  | reserved0 (ctx : Nat) (args : List Arg)
  /-- RESERVED_B. -/
  | reservedB (ctx : Nat) (args : List Arg)
  /-- RESERVED_C. -/
  | reservedC (ctx : Nat) (args : List Arg)
  /-- RESERVED_D. -/
  | reservedD (ctx : Nat) (args : List Arg)
  /-- RESERVED_E. -/
  | reservedE (ctx : Nat) (args : List Arg)
  /-- RESERVED_F. -/
  | reservedF (ctx : Nat) (args : List Arg)
  deriving DecidableEq, Repr

end Sys2Proof
end

