-- ==== Sys2Proof/WellFormed.lean ====
section
/-! DEFINITION. When a packet and an instruction are well-formed. -/

namespace Sys2Proof

/-- A packet is well-formed when its length field is the length of its payload (R21). -/
abbrev Packet.WellFormed (p : Packet) : Prop := p.payload.length = p.payloadLength.toNat

/-- An instruction is well-formed when some message encodes it: a frame's length field is the length of its payload
(R21, R80), and an unknown frame's kind is neither 0x01 nor 0x02 (R83). A command's operands are values of their types,
each of which a message can carry (R90). -/
def Instr.WellFormed : Instr → Bool
  | .data _ _ len payload => payload.length == len.toNat
  | .ackf _ _ len payload => payload.length == len.toNat
  | .unknown kind _ _ len payload => payload.length == len.toNat && kind != kindData && kind != kindAck
  | .crc32 _ _ => true
  | .verify _ _ => true
  | .encrypt _ _ => true
  | .decrypt _ _ => true
  | .encode _ _ => true
  | .decode _ _ => true
  | .mkdata _ _ _ => true
  | .mkack _ _ => true
  | .send _ => true
  | .serve _ => true
  | .reserved0 _ _ => true
  | .reservedB _ _ => true
  | .reservedC _ _ => true
  | .reservedD _ _ => true
  | .reservedE _ _ => true
  | .reservedF _ _ => true

end Sys2Proof
end

