-- ==== Sys2Proof/Decode.lean ====
section
/-! DEFINITION. The decoder and the encoder of frames (30_encoding.md, 42_codec.md) and of command messages
(R90 to R92), total, rejecting by name, and the host's view of a table word. -/

namespace Sys2Proof

/-! ### Byte order (R14, R62) -/

/-- `be16`: most significant byte first (R14). -/
def be16 (v : Half) : Bytes := [v.extractLsb' 8 8, v.extractLsb' 0 8]

/-- `be32`: most significant byte first (R14). -/
def be32 (v : Word) : Bytes :=
  [v.extractLsb' 24 8, v.extractLsb' 16 8, v.extractLsb' 8 8, v.extractLsb' 0 8]

/-- `unbe16([b0, b1])` (R14). -/
def unbe16 (b0 b1 : Byte) : Half := b0 ++ b1

/-- `unbe32([b0, b1, b2, b3])` (R14). -/
def unbe32 (b0 b1 b2 b3 : Byte) : Word := b0 ++ b1 ++ b2 ++ b3

/-! ### The frame codec -/

/-- The codec's errors (R261). -/
inductive FramingError where
  /-- Decode input shorter than 11 bytes (R174). -/
  | shortHeader
  /-- Decode input shorter than 11 bytes and the declared payload (R174). -/
  | truncatedPayload
  /-- Encode of a payload longer than 65535 bytes (R172). -/
  | oversizePayload
  deriving DecidableEq, Repr

/-- The bytes of a frame of these fields (R80, R82); `len` is written as given. -/
def frameBytes (kind : Byte) (seq cks : Word) (len : Half) (payload : Bytes) : Bytes :=
  [kind] ++ be32 seq ++ be32 cks ++ be16 len ++ payload

/-- `ENCODE` (R172): the length written is that of the payload, whatever the record's field says (D23). -/
def encodePacket (p : Packet) : Except FramingError Bytes :=
  if p.payload.length > lenMax then .error .oversizePayload
  else .ok (frameBytes p.kind p.sequenceNumber p.checksum (BitVec.ofNat 16 p.payload.length) p.payload)

/-- `DECODE` (R174): the packet and the number of bytes it took; the header check comes first; surplus bytes are left
(R175). -/
def decodePacket (b : Bytes) : Except FramingError (Packet × Nat) :=
  match b with
  | kind :: s3 :: s2 :: s1 :: s0 :: c3 :: c2 :: c1 :: c0 :: l1 :: l0 :: rest =>
    if rest.length < (unbe16 l1 l0).toNat then .error .truncatedPayload
    else
      .ok ({ kind := kind
             sequenceNumber := unbe32 s3 s2 s1 s0
             checksum := unbe32 c3 c2 c1 c0
             payloadLength := unbe16 l1 l0
             payload := rest.take (unbe16 l1 l0).toNat },
           headerBytes + (unbe16 l1 l0).toNat)
  | _ => .error .shortHeader

/-! ### From messages to instructions -/

/-- Why a message is no instruction. -/
inductive DecodeError where
  /-- The bytes are no whole frame (R174). -/
  | framing (e : FramingError)
  /-- The arguments of a command message are not those of its operation (R91; log entry 21). -/
  | badArguments (op : BitVec 4)
  deriving DecidableEq, Repr

/-- The frame row a packet is of, by its kind byte, rows tried in order (R83, R95). -/
def frameInstr (p : Packet) : Instr :=
  if p.kind = kindData then .data p.sequenceNumber p.checksum p.payloadLength p.payload
  else if p.kind = kindAck then .ackf p.sequenceNumber p.checksum p.payloadLength p.payload
  else .unknown p.kind p.sequenceNumber p.checksum p.payloadLength p.payload

/-- The frame at the front of a byte sequence, and the bytes after it. -/
def decodeFrame (b : Bytes) : Except DecodeError (Instr × Bytes) :=
  match decodePacket b with
  | .ok (p, n) => .ok (frameInstr p, b.drop n)
  | .error e => .error (.framing e)

/-- The command of a command message (R91, R92). -/
def decodeCmd (m : CmdMsg) : Except DecodeError Instr :=
  match m.op.toNat, m.args with
  | 0x1, [.bytes b] => .ok (.crc32 m.ctx b)
  | 0x2, [.packet p] => .ok (.verify m.ctx p)
  | 0x3, [.bytes b] => .ok (.encrypt m.ctx b)
  | 0x4, [.bytes b] => .ok (.decrypt m.ctx b)
  | 0x5, [.packet p] => .ok (.encode m.ctx p)
  | 0x6, [.bytes b] => .ok (.decode m.ctx b)
  | 0x7, [.word v, .bytes b] => .ok (.mkdata m.ctx v b)
  | 0x8, [.word v] => .ok (.mkack m.ctx v)
  | 0x9, [] => .ok (.send m.ctx)
  | 0xA, [] => .ok (.serve m.ctx)
  | 0x0, args => .ok (.reserved0 m.ctx args)
  | 0xB, args => .ok (.reservedB m.ctx args)
  | 0xC, args => .ok (.reservedC m.ctx args)
  | 0xD, args => .ok (.reservedD m.ctx args)
  | 0xE, args => .ok (.reservedE m.ctx args)
  | 0xF, args => .ok (.reservedF m.ctx args)
  | _, _ => .error (.badArguments m.op)

/-- Where an instruction arrives: as bytes of the connection, or as a command message of the host. -/
inductive Msg where
  | frame (b : Bytes)
  | cmd (m : CmdMsg)
  deriving DecidableEq, Repr

/-- The decoder: the instruction, and the bytes of the connection after it. -/
def decode : Msg → Except DecodeError (Instr × Bytes)
  | .frame b => decodeFrame b
  | .cmd m =>
    match decodeCmd m with
    | .ok i => .ok (i, [])
    | .error e => .error e

/-- The encoder (R82, R90, R91): the message of a well-formed instruction. -/
def encode : Instr → Msg
  | .data seq cks len payload => .frame (frameBytes kindData seq cks len payload)
  | .ackf seq cks len payload => .frame (frameBytes kindAck seq cks len payload)
  | .unknown kind seq cks len payload => .frame (frameBytes kind seq cks len payload)
  | .crc32 ctx b => .cmd ⟨0x1#4, ctx, [.bytes b]⟩
  | .verify ctx p => .cmd ⟨0x2#4, ctx, [.packet p]⟩
  | .encrypt ctx b => .cmd ⟨0x3#4, ctx, [.bytes b]⟩
  | .decrypt ctx b => .cmd ⟨0x4#4, ctx, [.bytes b]⟩
  | .encode ctx p => .cmd ⟨0x5#4, ctx, [.packet p]⟩
  | .decode ctx b => .cmd ⟨0x6#4, ctx, [.bytes b]⟩
  | .mkdata ctx v b => .cmd ⟨0x7#4, ctx, [.word v, .bytes b]⟩
  | .mkack ctx v => .cmd ⟨0x8#4, ctx, [.word v]⟩
  | .send ctx => .cmd ⟨0x9#4, ctx, []⟩
  | .serve ctx => .cmd ⟨0xA#4, ctx, []⟩
  | .reserved0 ctx args => .cmd ⟨0x0#4, ctx, args⟩
  | .reservedB ctx args => .cmd ⟨0xB#4, ctx, args⟩
  | .reservedC ctx args => .cmd ⟨0xC#4, ctx, args⟩
  | .reservedD ctx args => .cmd ⟨0xD#4, ctx, args⟩
  | .reservedE ctx args => .cmd ⟨0xE#4, ctx, args⟩
  | .reservedF ctx args => .cmd ⟨0xF#4, ctx, args⟩

/-! ### The host's view of a table word -/

/-- `n` bytes of `w`, most significant first: the header word `H` as bytes, the first byte most significant (R81). -/
def bigEndian : Nat → Nat → Bytes
  | 0, _ => []
  | n + 1, w => BitVec.ofNat 8 (w >>> (8 * n)) :: bigEndian n w

/-- The operands of a command all zero: the empty sequence, the number 0, the all-zero packet (log entry 23). -/
def zeroArgs (op : Nat) : List Arg :=
  match op with
  | 0x1 | 0x3 | 0x4 | 0x6 => [.bytes []]
  | 0x2 | 0x5 => [.packet ⟨0#8, 0#32, 0#32, 0#16, []⟩]
  | 0x7 => [.word 0#32, .bytes []]
  | 0x8 => [.word 0#32]
  | _ => []

/-- The message of a table word (R81, R95; log entry 23). Up to 8 bits it is a command word `op[3:0]`, with context 0 and
operands of zeros; at 88 bits it is the header word `H` of a frame, with as many zero payload bytes as it declares. -/
def tableMsg (nbits w : Nat) : Option Msg :=
  if nbits ≤ 8 then
    if w < 16 then some (.cmd ⟨BitVec.ofNat 4 w, 0, zeroArgs w⟩) else none
  else if nbits = 88 then some (.frame (bigEndian 11 w ++ List.replicate (w % 65536) 0#8))
  else none

/-- The instruction the decoder reads from a table word. -/
def decodeTableWord (nbits w : Nat) : Option Instr :=
  match tableMsg nbits w with
  | none => none
  | some m =>
    match decode m with
    | .ok (i, _) => some i
    | .error _ => none

end Sys2Proof
end

