-- ==== Sys2Proof/Machine/State.lean ====
section
/-! DEFINITION. The state of FTCORE as plain data: the registers of 10_state.md R39, the buffers of
20_memory.md R50, the messages at the ports of R52, and the model's own schedule; the reasons a step can
stop; the state after reset. -/

namespace Sys2Proof.Machine

open Sys2Proof

/-! ### Sequencer states and error codes -/

/-- `role` (R24); the value 3 is never held. -/
inductive Role where
  | none
  | sender
  | receiver
  deriving DecidableEq, Repr

/-- `tx_state` (R25); the values 6 and 7 are never held. -/
inductive TxState where
  | idle
  | fetch
  | awaitingAck
  | acked
  | done
  | failed
  deriving DecidableEq, Repr

/-- `rx_state` (R33); the value 3 is never held. -/
inductive RxState where
  | idle
  | serving
  | closed
  deriving DecidableEq, Repr

/-- The error causes of the taxonomy, a constructor per row of R260 but its first ("no error"). -/
inductive ErrCode where
  | shortHeader
  | truncatedPayload
  | oversizePayload
  | shortCiphertext
  | badKey
  | rngFailure
  | checksumMismatch
  | readFailure
  | writeFailure
  | timeout
  | endOfStream
  | unknownKind
  | ackSeqMismatch
  | srcReadFailure
  deriving DecidableEq, Repr

/-! ### Messages at the ports -/

/-- A message on `CHUNK_IN` (R56). -/
inductive ChunkMsg where
  | chunk (b : Bytes)
  | srcErr
  deriving DecidableEq, Repr

/-- A message on `RNG_IN` answering a draw of 16 bytes (R57); the type excludes an answer of another length (U6). -/
inductive RngMsg where
  | ok (iv : Block)
  | rngErr
  deriving DecidableEq, Repr

/-- The connection's answer to a `TxWrite` (R58). After `WriteErr` the peer sees the first `seen` bytes of the frame, a
number the environment chooses (U1; log entry 19). -/
inductive TxAnswer where
  | ok
  | writeErr (seen : Nat)
  deriving DecidableEq, Repr

/-- A message on `RX_IN` (R59). -/
inductive RxMsg where
  | read (b : Bytes)
  | eof
  | readErr
  deriving DecidableEq, Repr

/-- A frame handed to the connection, with the connection's answer (R58). -/
structure TxRecord where
  frame  : Bytes
  answer : TxAnswer
  deriving DecidableEq, Repr

/-- A message on `PLAIN_OUT` (R60). -/
structure Plain where
  seq   : Word
  bytes : Bytes
  deriving DecidableEq, Repr

/-- An event record (R275). -/
structure Event where
  code : BitVec 4
  a    : Byte
  b    : Word
  c    : Half
  deriving DecidableEq, Repr

/-- An answer on `RSP` (R90). `err e` carries the class and cause of `e`; the `Err` of a refused `SEND` or `SERVE` has no
content (U4; log entry 15). -/
inductive Response where
  | word (v : Word)
  | bool (v : Bool)
  | bytes (b : Bytes)
  | packet (p : Packet)
  | decoded (p : Packet) (consumed : Nat)
  | started
  | err (e : ErrCode)
  | errRefused
  deriving DecidableEq, Repr

/-! ### Registers -/

/-- The working registers of the units and the buffers (R31, R34 to R36, R50), a set for each context, whose values between
operations are unspecified (U2): each operation that writes one leaves a free value in it (log entry 5). `unit` and `draws` are the
model's own: they name the free values. -/
structure Work where
  crcReg     : Word
  fb         : Block
  ks         : Block
  pkKind     : Byte
  pkSeq      : Word
  pkCks      : Word
  pkLen      : Half
  chunkBuf   : Bytes
  payloadBuf : Bytes
  frameBuf   : Bytes
  rxReadBuf  : Bytes
  unit       : Nat
  draws      : Nat
  deriving DecidableEq, Repr

/-- A context (R24): its registers (R25 to R33, R39), its buffers (R50) and its ports (R52). -/
structure Ctx where
  role         : Role
  txState      : TxState
  seqCtr       : Word
  ackTimer     : Nat
  timerArmed   : Bool
  mismatchSeen : Bool
  errClass     : BitVec 3
  errCause     : BitVec 3
  errSeq       : Word
  rxbuf        : Bytes
  rxState      : RxState
  work         : Work
  cmdIn        : List CmdMsg
  chunkIn      : List ChunkMsg
  rngIn        : List RngMsg
  txAns        : List TxAnswer
  rxIn         : List RxMsg
  rsp          : List Response
  txOut        : List TxRecord
  pktOut       : List Packet
  plainOut     : List Plain
  evtOut       : List Event
  deriving DecidableEq, Repr

/-- A move: who acts next (log entry 4). The host's command, a sequencer step of a context, a tick of the clock, a signal
or an input of the environment (R277, R289, R322). -/
inductive Move where
  /-- The core takes the next command message on `CMD` of a context. -/
  | host (k : Nat)
  /-- Step `SendChunk` of a context (R192). -/
  | sendChunk (k : Nat)
  /-- Step `AckRead` of a context (R197, R200). -/
  | ackRead (k : Nat)
  /-- Step `AckTimeout` of a context (R201). -/
  | ackTimeout (k : Nat)
  /-- Step `NextChunk` of a context (R204). -/
  | nextChunk (k : Nat)
  /-- Step `RxRead` of a context (R232, R239). -/
  | rxRead (k : Nat)
  /-- A tick of the timers' clock (R287). -/
  | tick
  /-- Context reset (R300, R301), with which the environment discards what the connection still holds, or leaves it. -/
  | resetCtx (k : Nat) (discard : Bool)
  /-- Global reset (R300). -/
  | resetAll
  /-- A key load (R322; log entry 6). -/
  | loadKey (key : Block)
  /-- The host offers a command message on `CMD` of a context. -/
  | offerCmd (k : Nat) (m : CmdMsg)
  /-- The random source offers an answer to a context. -/
  | offerRng (k : Nat) (m : RngMsg)
  /-- The chunk source offers a message to a context. -/
  | offerChunk (k : Nat) (m : ChunkMsg)
  /-- The connection decides its answer to a context's next write. -/
  | answerTx (k : Nat) (a : TxAnswer)
  /-- The connection offers a message to a context. -/
  | offerRx (k : Nat) (m : RxMsg)
  deriving DecidableEq, Repr

/-- The state of FTCORE. -/
structure State where
  /-- `KEY` (R23). -/
  key     : Block
  /-- The build-time parameters (R10). -/
  params  : Params
  /-- The contexts `0 .. N_CTX - 1` (R24). -/
  ctxs    : List Ctx
  /-- The model's own: the context whose step runs, or at whose `CMD` a command is performed (log entries 13, 27). -/
  cur     : Nat
  /-- The model's own: an operation has been performed since the global reset (log entry 6). -/
  started : Bool
  /-- `KEY` has been loaded since the global reset: it is not loaded again (R23, R42), and before it no cipher operation has a
  meaning (R305; log entry 6). -/
  keyLoaded : Bool
  /-- The model's own: the moves to come (log entry 4). -/
  sched   : List Move
  deriving DecidableEq, Repr

/-! ### Why a step stops -/

/-- Faults. -/
inductive Fault where
  /-- A context number outside `0 .. N_CTX - 1` (R90, R289): raised by SEND and SERVE of such a number, by an instruction
  performed at such a context, and by every move that names one. Safe (log entry 17). -/
  | noSuchContext
  deriving DecidableEq, Repr

/-- Refusals. -/
inductive Refusal where
  /-- An instruction without a meaning; no arm of exec is left so. Safe. -/
  | notModelled (mnemonic : String)
  /-- A reserved operation code (R92, U8): raised by the six reserved commands. Safe (log entry 9). -/
  | reservedCommand (op : BitVec 4)
  /-- A command message whose arguments are not its operation's (R91): raised when the core takes it. Safe (log entry
  21). -/
  | malformedCommand (op : BitVec 4)
  /-- `NextChunk` at `seq_ctr = 0xFFFFFFFF` (R204, R209, U3). Safe (log entry 10). -/
  | seqOverflow
  /-- A chunk longer than 1024 bytes, outside the port's contract (R56, U6): raised by `SendChunk`. Safe (log entry 11). -/
  | chunkTooLong
  /-- A read longer than `RX_BUF_BYTES`, outside the port's contract (R59, U6): raised by `AckRead` and `RxRead`. Safe (log
  entry 11). -/
  | readTooLong
  /-- A key load after the first operation, after another key load, or while a context is outside `Idle` (R42, R72, R322,
  U7). Safe (log entry 6). -/
  | keyLocked
  /-- A cipher operation before `KEY` has been loaded (R305, U5): raised by ENCRYPT and DECRYPT, by `SendChunk` with a chunk to
  encrypt, and by a frame or an `RxRead` with a packet to decrypt. Safe (log entry 6). -/
  | keyNotLoaded
  deriving DecidableEq, Repr

/-! ### Reset -/

/-- The working registers of a unit after reset: unspecified (R39), so free values (log entry 5). -/
def Work.reset (unit : Nat) : Work :=
  { crcReg := Config.freeWord unit 0 0
    fb := Config.freeBlock unit 0 0
    ks := Config.freeBlock unit 0 1
    pkKind := Config.freeByte unit 0 0
    pkSeq := Config.freeWord unit 0 1
    pkCks := Config.freeWord unit 0 2
    pkLen := Config.freeHalf unit 0 0
    chunkBuf := Config.freeBytes unit 0 0
    payloadBuf := Config.freeBytes unit 0 1
    frameBuf := Config.freeBytes unit 0 2
    rxReadBuf := Config.freeBytes unit 0 3
    unit := unit
    draws := 1 }

/-- A context after reset (R39, R302), its ports empty; `unit` names its working registers. -/
def Ctx.afterReset (unit : Nat) : Ctx :=
  { role := .none, txState := .idle, seqCtr := seqFirst, ackTimer := 0, timerArmed := false
    mismatchSeen := false, errClass := 0#3, errCause := 0#3, errSeq := 0#32, rxbuf := []
    rxState := .idle, work := Work.reset unit
    cmdIn := [], chunkIn := [], rngIn := [], txAns := [], rxIn := []
    rsp := [], txOut := [], pktOut := [], plainOut := [], evtOut := [] }

/-- The machine right after the global reset (R39, R302): every context in its reset state, nothing pending, nothing
scheduled. The OPEN parameters are the model's (log entries 6, 7). -/
def State.reset : State :=
  { key := Config.key
    params := Config.params
    ctxs := (List.range Config.nCtx).map Ctx.afterReset
    cur := 0, started := false, keyLoaded := false, sched := [] }

end Sys2Proof.Machine
end

