-- ==== Sys2Proof/Machine/Flags.lean ====
section
/-! DEFINITION. The flag-like results of FTCORE (R37): the codes of the error registers, the acknowledgment
matcher, the mismatch flag, and the timer's flags. -/

namespace Sys2Proof.Machine

open Sys2Proof

/-- The class of an error, as `err_class` holds it (R260). -/
def ErrCode.cls : ErrCode → BitVec 3
  | .shortHeader | .truncatedPayload | .oversizePayload => 1#3
  | .shortCiphertext | .badKey | .rngFailure => 2#3
  | .checksumMismatch => 3#3
  | .readFailure | .writeFailure | .timeout | .endOfStream => 4#3
  | .unknownKind | .ackSeqMismatch => 5#3
  | .srcReadFailure => 6#3

/-- The cause of an error within its class, as `err_cause` holds it (R260). -/
def ErrCode.cause : ErrCode → BitVec 3
  | .shortHeader => 1#3
  | .truncatedPayload => 2#3
  | .oversizePayload => 3#3
  | .shortCiphertext => 1#3
  | .badKey => 2#3
  | .rngFailure => 3#3
  | .checksumMismatch => 1#3
  | .readFailure => 1#3
  | .writeFailure => 2#3
  | .timeout => 3#3
  | .endOfStream => 4#3
  | .unknownKind => 1#3
  | .ackSeqMismatch => 2#3
  | .srcReadFailure => 1#3

/-- The codec's error as a cause of the taxonomy (R260, R261). -/
def framingErr : FramingError → ErrCode
  | .shortHeader => .shortHeader
  | .truncatedPayload => .truncatedPayload
  | .oversizePayload => .oversizePayload

/-- The acknowledgment matcher (R198): the kind and the sequence number, and nothing else of the packet. -/
def Ctx.isMatch (c : Ctx) (p : Packet) : Bool :=
  p.kind == kindAck && p.sequenceNumber == c.seqCtr

/-- `mismatch_seen` after the discard of a packet (R199): set by an acknowledgment, unchanged by any other kind. -/
def Ctx.mismatchAfter (c : Ctx) (p : Packet) : Bool :=
  c.mismatchSeen || p.kind == kindAck

/-- The timer has expired (R287). -/
def Ctx.timerExpired (c : Ctx) : Bool := c.timerArmed && c.ackTimer == 0

/-- The cause a timeout reports (R201, 90_conflicts.md C6). -/
def Ctx.timeoutCause (c : Ctx) : ErrCode :=
  if c.mismatchSeen then .ackSeqMismatch else .timeout

/-- A context outside every run: no role, both sequencers `Idle` (R24, R72). -/
def Ctx.isIdle (c : Ctx) : Bool :=
  c.role == .none && c.txState == .idle && c.rxState == .idle

end Sys2Proof.Machine
end

