-- ==== Sys2Proof/Machine/Operands.lean ====
section
/-! DEFINITION. The operand forms of the operations: blocks and byte sequences, and the packet records a
frame row or a builder names. -/

namespace Sys2Proof.Machine

open Sys2Proof

/-- The four bytes of a column, in index order (R132). -/
def colBytes (w : Col) : Bytes := [w.r0, w.r1, w.r2, w.r3]

/-- The sixteen bytes `b[0..15]` of a block, in index order (R132). -/
def blockToBytes (x : Block) : Bytes :=
  colBytes x.c0 ++ colBytes x.c1 ++ colBytes x.c2 ++ colBytes x.c3

/-- The column at offset `i` of a byte sequence; a byte past its end is 0. -/
def colAt (b : Bytes) (i : Nat) : Col :=
  ⟨b.getD i 0, b.getD (i + 1) 0, b.getD (i + 2) 0, b.getD (i + 3) 0⟩

/-- The block of the first sixteen bytes of a sequence (R132). Of a shorter one, which only the short last block of R146
is and whose feedback is not used again, the missing bytes are 0. -/
def blockOfBytes (b : Bytes) : Block :=
  ⟨colAt b 0, colAt b 4, colAt b 8, colAt b 12⟩

/-- Bytewise exclusive or, as long as the shorter operand: `[p[i] ^ k[i] for i in 0 .. m-1]` (R146 to R148). -/
def xorBytes (p k : Bytes) : Bytes := List.zipWith (· ^^^ ·) p k

/-- The record of a frame with these fields (R20, R82). -/
def packetOf (kind : Byte) (seq cks : Word) (len : Half) (payload : Bytes) : Packet :=
  { kind := kind, sequenceNumber := seq, checksum := cks, payloadLength := len, payload := payload }

/-- A 16-bit length field; every use is under a bound of 65535 (R183). -/
def lenField (n : Nat) : Half := BitVec.ofNat 16 n

/-- A length as the 32-bit field `b` of an event (R276; log entry 18). -/
def countField (n : Nat) : Word := BitVec.ofNat 32 n

end Sys2Proof.Machine
end

