-- ==== Sys2Proof/Machine/Ops.lean ====
section
/-! DEFINITION. The named operations over the state: working registers, the port primitives of
20_memory.md, the events of R276, the entry to failure and the way back from it, the timer, and one turn
of a context. -/

namespace Sys2Proof.Machine

open Sys2Proof

/-! ### Working registers (R34 to R36, R50, U2) -/

/-- The working registers an operation may write, in groups. -/
inductive WorkReg where
  /-- `crc_reg` (R34). -/
  | crc
  /-- `fb` and `ks` (R35). -/
  | cipher
  /-- `pk_kind`, `pk_seq`, `pk_cks`, `pk_len` and `PAYLOAD_BUF` (R36). -/
  | pk
  /-- `CHUNK_BUF` (R50). -/
  | chunk
  /-- `FRAME_BUF` (R50). -/
  | frame
  /-- `rx_read_buf` (R31). -/
  | rxRead
  deriving DecidableEq, Repr

/-- What an operation leaves in the working registers it writes: the next free values; the others keep theirs (log
entry 5). -/
def Work.touch (regs : List WorkReg) (w : Work) : Work :=
  { w with
    crcReg := if .crc ∈ regs then Config.freeWord w.unit w.draws 0 else w.crcReg
    fb := if .cipher ∈ regs then Config.freeBlock w.unit w.draws 0 else w.fb
    ks := if .cipher ∈ regs then Config.freeBlock w.unit w.draws 1 else w.ks
    pkKind := if .pk ∈ regs then Config.freeByte w.unit w.draws 0 else w.pkKind
    pkSeq := if .pk ∈ regs then Config.freeWord w.unit w.draws 1 else w.pkSeq
    pkCks := if .pk ∈ regs then Config.freeWord w.unit w.draws 2 else w.pkCks
    pkLen := if .pk ∈ regs then Config.freeHalf w.unit w.draws 0 else w.pkLen
    chunkBuf := if .chunk ∈ regs then Config.freeBytes w.unit w.draws 0 else w.chunkBuf
    payloadBuf := if .pk ∈ regs then Config.freeBytes w.unit w.draws 1 else w.payloadBuf
    frameBuf := if .frame ∈ regs then Config.freeBytes w.unit w.draws 2 else w.frameBuf
    rxReadBuf := if .rxRead ∈ regs then Config.freeBytes w.unit w.draws 3 else w.rxReadBuf
    draws := w.draws + 1 }

/-- A context's working registers after it wrote these. -/
def Ctx.touch (regs : List WorkReg) (c : Ctx) : Ctx := { c with work := c.work.touch regs }

/-! ### Port primitives (R56 to R61) -/

/-- `ChunkRead` (R56): takes the next message, if there is one. -/
def Ctx.chunkRead (c : Ctx) : Option (ChunkMsg × Ctx) :=
  match c.chunkIn with
  | [] => none
  | m :: ms => some (m, { c with chunkIn := ms })

/-- `RngDraw(16)` (R57): takes the next answer, if there is one. -/
def Ctx.rngDraw (c : Ctx) : Option (RngMsg × Ctx) :=
  match c.rngIn with
  | [] => none
  | m :: ms => some (m, { c with rngIn := ms })

/-- `TxWrite(f)` (R58): hands the frame to the connection with its answer, once the connection answers (R278). -/
def Ctx.txWrite (f : Bytes) (c : Ctx) : Option (TxAnswer × Ctx) :=
  match c.txAns with
  | [] => none
  | a :: rest => some (a, { c with txAns := rest, txOut := c.txOut ++ [⟨f, a⟩] })

/-- `RxNext` (R59): takes the next message, if there is one. -/
def Ctx.rxNext (c : Ctx) : Option (RxMsg × Ctx) :=
  match c.rxIn with
  | [] => none
  | m :: ms => some (m, { c with rxIn := ms })

/-- The answer to the command at the head of `CMD`: it goes out on `RSP`, and the command leaves `CMD` (R52, R90; log entry
24). -/
def Ctx.respond (r : Response) (c : Ctx) : Ctx := { c with rsp := c.rsp ++ [r], cmdIn := c.cmdIn.tail }

/-- `PktOut(p)` (R60). -/
def Ctx.putPacket (p : Packet) (c : Ctx) : Ctx := { c with pktOut := c.pktOut ++ [p] }

/-- `PlainOut(seq, b)` (R60). -/
def Ctx.putPlain (seq : Word) (b : Bytes) (c : Ctx) : Ctx :=
  { c with plainOut := c.plainOut ++ [⟨seq, b⟩] }

/-- `Emit(e)` (R61). -/
def Ctx.emit (e : Event) (c : Ctx) : Ctx := { c with evtOut := c.evtOut ++ [e] }

/-- The bytes of a written frame that the peer sees: all of it after `Ok`, the chosen first bytes after `WriteErr` (R58,
U1). -/
def TxRecord.seen (r : TxRecord) : Bytes :=
  match r.answer with
  | .ok => r.frame
  | .writeErr n => r.frame.take n

/-- The outgoing stream of a context: the written bytes, in the order of the writes (R53, R58). -/
def Ctx.outStream (c : Ctx) : Bytes := c.txOut.flatMap TxRecord.seen

/-! ### Events (R276) -/

/-- `EV_DATA`. -/
def evData (seq : Word) (len : Half) : Event := ⟨1#4, 0#8, seq, len⟩

/-- `EV_DECODE_FAIL`, with the cause and the length of the read. -/
def evDecodeFail (e : FramingError) (n : Nat) : Event :=
  ⟨2#4, (framingErr e).cause.setWidth 8, countField n, 0#16⟩

/-- `EV_CHECKSUM_FAIL`. -/
def evChecksumFail (kind : Byte) (seq : Word) (len : Half) : Event := ⟨3#4, kind, seq, len⟩

/-- `EV_UNEXPECTED_ACK`. -/
def evUnexpectedAck (seq : Word) (len : Half) : Event := ⟨4#4, 0#8, seq, len⟩

/-- `EV_UNKNOWN_KIND`. -/
def evUnknownKind (kind : Byte) (seq : Word) (len : Half) : Event := ⟨5#4, kind, seq, len⟩

/-- `EV_ACK_WRITE_FAIL`. -/
def evAckWriteFail (seq : Word) : Event := ⟨6#4, 0#8, seq, 0#16⟩

/-- `EV_DECRYPT_FAIL`. -/
def evDecryptFail (seq : Word) (len : Half) : Event := ⟨7#4, 0#8, seq, len⟩

/-- `EV_EOS`, with the residual byte count. -/
def evEos (n : Nat) : Event := ⟨8#4, 0#8, countField n, 0#16⟩

/-- `EV_READ_ERROR`. -/
def evReadError : Event := ⟨9#4, 0#8, 0#32, 0#16⟩

/-- `EV_TX_FAILED`, `a` the class times 16 plus the cause. -/
def evTxFailed (e : ErrCode) (seq : Word) : Event :=
  ⟨10#4, e.cls.setWidth 8 * 16#8 + e.cause.setWidth 8, seq, 0#16⟩

/-! ### Failure, and the way back from it -/

/-- `Fail(class, cause)`: the one entry to `Failed` (R206, R268). It records the error and the sequence number, disarms
the timer, and raises `EV_TX_FAILED`; there is no handler. -/
def Ctx.fail (e : ErrCode) (c : Ctx) : Ctx :=
  Ctx.emit (evTxFailed e c.seqCtr)
    { c with
      errClass := e.cls
      errCause := e.cause
      errSeq := c.seqCtr
      timerArmed := false
      txState := .failed }

/-- Context reset, the only return from `Failed`, `Done` and `Closed` (R270, R300 to R302): the registers take the values
of R39; the pending input stays the environment's (R301); `TX_OUT` starts anew with the next connection (log entry
16); the working registers hold free values. -/
def Ctx.reset (c : Ctx) : Ctx :=
  { c with
    role := .none
    txState := .idle
    seqCtr := seqFirst
    ackTimer := 0
    timerArmed := false
    mismatchSeen := false
    errClass := 0#3
    errCause := 0#3
    errSeq := 0#32
    rxbuf := []
    rxState := .idle
    work := c.work.touch [.crc, .cipher, .pk, .chunk, .frame, .rxRead]
    txOut := [] }

/-- Context reset at the end of a connection: what the connection still holds is the environment's to discard with it, or
to leave (R301; log entry 16). -/
def Ctx.disconnect (discard : Bool) (c : Ctx) : Ctx :=
  { c.reset with rxIn := if discard then [] else c.rxIn }

/-! ### The acknowledgment timer (R280, R285 to R287) -/

/-- Arming, on the transition to `AwaitingAck` (R285). -/
def Ctx.armTimer (P : Params) (c : Ctx) : Ctx :=
  { c with ackTimer := P.ackTimeoutTicks, timerArmed := true }

/-- One tick (R287). -/
def Ctx.tick (c : Ctx) : Ctx :=
  if c.timerArmed && decide (0 < c.ackTimer) then { c with ackTimer := c.ackTimer - 1 } else c

/-! ### The machine -/

/-- The context numbered `k`, if there is one (R289). -/
def State.ctx? (s : State) (k : Nat) : Option Ctx := s.ctxs[k]?

/-- The state with context `k` replaced. -/
def State.setCtx (k : Nat) (c : Ctx) (s : State) : State := { s with ctxs := s.ctxs.set k c }

/-- `KEY` as a cipher operation finds it: none before it has been loaded (R305, U5). -/
def State.cipherKey (s : State) : Option Block := if s.keyLoaded then some s.key else none

/-- Why a context that is given a turn does not take the step. -/
inductive Stop where
  /-- The step is not enabled: nothing changes (R278, U15). -/
  | waits
  /-- The spec gives the step no meaning. -/
  | refuses (r : Refusal)
  deriving DecidableEq, Repr

/-- What a context answers when it is given a turn: the context after the step, or why there is none. -/
abbrev Turn := Except Stop Ctx

/-- A turn of context `k`, if there is one: no other context changes (R73), and `mark` sets the model's own fields. -/
def State.give (k : Nat) (f : Ctx → Turn) (mark : State → State) (s : State) : Host.Outcome State Fault Refusal :=
  match s.ctx? k with
  | none => .fault .noSuchContext
  | some c =>
    match f c with
    | .ok c' => .next (mark (s.setCtx k c'))
    | .error .waits => .next s
    | .error (.refuses r) => .refused r

/-- A sequencer step of context `k`; `cur` names the context. -/
def State.turn (k : Nat) (f : Ctx → Turn) (s : State) : Host.Outcome State Fault Refusal :=
  s.give k f fun t => { t with cur := k }

/-- A command performed at the ports of the context `cur`, on whose `CMD` it came (R52; log entry 27). -/
def State.perform (f : Ctx → Turn) (s : State) : Host.Outcome State Fault Refusal :=
  s.give s.cur f fun t => { t with started := true }

/-- A command that writes these working registers and answers. -/
def State.answer (regs : List WorkReg) (r : Response) (s : State) : Host.Outcome State Fault Refusal :=
  s.perform fun c => .ok ((c.touch regs).respond r)

/-- A command that answers and writes nothing else: an error (R267), or a result that needs no register. -/
def State.reply (r : Response) (s : State) : Host.Outcome State Fault Refusal :=
  s.perform fun c => .ok (c.respond r)

/-- A change of context `k` by the environment. -/
def State.onCtx (k : Nat) (f : Ctx → Ctx) (s : State) : Host.Outcome State Fault Refusal :=
  match s.ctx? k with
  | none => .fault .noSuchContext
  | some c => .next (s.setCtx k (f c))

/-- Global reset (R300, R302): every context, with its units; `KEY` and the parameters stay as configured (R304, U9), and `KEY`
has to be loaded again before the next cipher operation (R305; log entry 6). -/
def State.resetAll (s : State) : State :=
  { s with
    ctxs := s.ctxs.map Ctx.reset
    started := false
    keyLoaded := false }

/-- A key load (R322): `KEY` is write-once (R23, R42), so it is loaded once after a global reset, before the first operation,
and never while a context is outside `Idle` (R72); any other load is refused (U7; log entry 6). -/
def State.loadKey (key : Block) (s : State) : Host.Outcome State Fault Refusal :=
  if s.started || s.keyLoaded || !s.ctxs.all Ctx.isIdle then .refused .keyLocked
  else .next { s with key := key, keyLoaded := true }

/-- What the host reads on `STATUS` (R42, R322). -/
structure Status where
  role     : Role
  txState  : TxState
  rxState  : RxState
  seqCtr   : Word
  errClass : BitVec 3
  errCause : BitVec 3
  errSeq   : Word
  deriving DecidableEq, Repr

/-- A read of `STATUS`: it has no effect on the state (R52, R66). -/
def State.status (s : State) (k : Nat) : Option Status :=
  (s.ctx? k).map fun c => ⟨c.role, c.txState, c.rxState, c.seqCtr, c.errClass, c.errCause, c.errSeq⟩

end Sys2Proof.Machine
end

