-- ==== Sys2Proof/Machine/Cipher.lean ====
section
/-! DEFINITION. The cipher unit (41_cipher.md): the AES-128 forward cipher, cipher feedback with 128-bit
segments over any block function, and the meanings of ENCRYPT and DECRYPT. -/

namespace Sys2Proof.Machine

open Sys2Proof

/-! ### The block function (R130 to R142) -/

/-- `xtime`: multiplication by `x` in GF(2^8) (R133). -/
def xtime (a : Byte) : Byte := (a <<< 1) ^^^ (if a.getLsbD 7 then 0x1B#8 else 0x00#8)

/-- `gmul(a, 3)` (R133). -/
def xtime3 (a : Byte) : Byte := xtime a ^^^ a

/-- The table of R134, line `R` holding `SBOX[0xR0] .. SBOX[0xRF]`. -/
def sboxTable : List (List Byte) :=
  [[0x63#8, 0x7c#8, 0x77#8, 0x7b#8, 0xf2#8, 0x6b#8, 0x6f#8, 0xc5#8, 0x30#8, 0x01#8, 0x67#8, 0x2b#8, 0xfe#8, 0xd7#8, 0xab#8, 0x76#8],
   [0xca#8, 0x82#8, 0xc9#8, 0x7d#8, 0xfa#8, 0x59#8, 0x47#8, 0xf0#8, 0xad#8, 0xd4#8, 0xa2#8, 0xaf#8, 0x9c#8, 0xa4#8, 0x72#8, 0xc0#8],
   [0xb7#8, 0xfd#8, 0x93#8, 0x26#8, 0x36#8, 0x3f#8, 0xf7#8, 0xcc#8, 0x34#8, 0xa5#8, 0xe5#8, 0xf1#8, 0x71#8, 0xd8#8, 0x31#8, 0x15#8],
   [0x04#8, 0xc7#8, 0x23#8, 0xc3#8, 0x18#8, 0x96#8, 0x05#8, 0x9a#8, 0x07#8, 0x12#8, 0x80#8, 0xe2#8, 0xeb#8, 0x27#8, 0xb2#8, 0x75#8],
   [0x09#8, 0x83#8, 0x2c#8, 0x1a#8, 0x1b#8, 0x6e#8, 0x5a#8, 0xa0#8, 0x52#8, 0x3b#8, 0xd6#8, 0xb3#8, 0x29#8, 0xe3#8, 0x2f#8, 0x84#8],
   [0x53#8, 0xd1#8, 0x00#8, 0xed#8, 0x20#8, 0xfc#8, 0xb1#8, 0x5b#8, 0x6a#8, 0xcb#8, 0xbe#8, 0x39#8, 0x4a#8, 0x4c#8, 0x58#8, 0xcf#8],
   [0xd0#8, 0xef#8, 0xaa#8, 0xfb#8, 0x43#8, 0x4d#8, 0x33#8, 0x85#8, 0x45#8, 0xf9#8, 0x02#8, 0x7f#8, 0x50#8, 0x3c#8, 0x9f#8, 0xa8#8],
   [0x51#8, 0xa3#8, 0x40#8, 0x8f#8, 0x92#8, 0x9d#8, 0x38#8, 0xf5#8, 0xbc#8, 0xb6#8, 0xda#8, 0x21#8, 0x10#8, 0xff#8, 0xf3#8, 0xd2#8]] ++
  [[0xcd#8, 0x0c#8, 0x13#8, 0xec#8, 0x5f#8, 0x97#8, 0x44#8, 0x17#8, 0xc4#8, 0xa7#8, 0x7e#8, 0x3d#8, 0x64#8, 0x5d#8, 0x19#8, 0x73#8],
   [0x60#8, 0x81#8, 0x4f#8, 0xdc#8, 0x22#8, 0x2a#8, 0x90#8, 0x88#8, 0x46#8, 0xee#8, 0xb8#8, 0x14#8, 0xde#8, 0x5e#8, 0x0b#8, 0xdb#8],
   [0xe0#8, 0x32#8, 0x3a#8, 0x0a#8, 0x49#8, 0x06#8, 0x24#8, 0x5c#8, 0xc2#8, 0xd3#8, 0xac#8, 0x62#8, 0x91#8, 0x95#8, 0xe4#8, 0x79#8],
   [0xe7#8, 0xc8#8, 0x37#8, 0x6d#8, 0x8d#8, 0xd5#8, 0x4e#8, 0xa9#8, 0x6c#8, 0x56#8, 0xf4#8, 0xea#8, 0x65#8, 0x7a#8, 0xae#8, 0x08#8],
   [0xba#8, 0x78#8, 0x25#8, 0x2e#8, 0x1c#8, 0xa6#8, 0xb4#8, 0xc6#8, 0xe8#8, 0xdd#8, 0x74#8, 0x1f#8, 0x4b#8, 0xbd#8, 0x8b#8, 0x8a#8],
   [0x70#8, 0x3e#8, 0xb5#8, 0x66#8, 0x48#8, 0x03#8, 0xf6#8, 0x0e#8, 0x61#8, 0x35#8, 0x57#8, 0xb9#8, 0x86#8, 0xc1#8, 0x1d#8, 0x9e#8],
   [0xe1#8, 0xf8#8, 0x98#8, 0x11#8, 0x69#8, 0xd9#8, 0x8e#8, 0x94#8, 0x9b#8, 0x1e#8, 0x87#8, 0xe9#8, 0xce#8, 0x55#8, 0x28#8, 0xdf#8],
   [0x8c#8, 0xa1#8, 0x89#8, 0x0d#8, 0xbf#8, 0xe6#8, 0x42#8, 0x68#8, 0x41#8, 0x99#8, 0x2d#8, 0x0f#8, 0xb0#8, 0x54#8, 0xbb#8, 0x16#8]]

/-- `SBOX[a]` (R134). -/
def sbox (a : Byte) : Byte := (sboxTable.getD (a.toNat / 16) []).getD (a.toNat % 16) 0#8

/-- `SubWord` (R140). -/
def subCol (w : Col) : Col := ⟨sbox w.r0, sbox w.r1, sbox w.r2, sbox w.r3⟩

/-- `RotWord` (R140). -/
def rotCol (w : Col) : Col := ⟨w.r1, w.r2, w.r3, w.r0⟩

/-- `w ^ v`, bytewise (R140). -/
def xorCol (w v : Col) : Col := ⟨w.r0 ^^^ v.r0, w.r1 ^^^ v.r1, w.r2 ^^^ v.r2, w.r3 ^^^ v.r3⟩

/-- `SubBytes` (R135). -/
def subBytes (b : Block) : Block := ⟨subCol b.c0, subCol b.c1, subCol b.c2, subCol b.c3⟩

/-- `ShiftRows` (R136): row `r` is rotated left by `r` columns. -/
def shiftRows (b : Block) : Block :=
  ⟨⟨b.c0.r0, b.c1.r1, b.c2.r2, b.c3.r3⟩,
   ⟨b.c1.r0, b.c2.r1, b.c3.r2, b.c0.r3⟩,
   ⟨b.c2.r0, b.c3.r1, b.c0.r2, b.c1.r3⟩,
   ⟨b.c3.r0, b.c0.r1, b.c1.r2, b.c2.r3⟩⟩

/-- One column of `MixColumns` (R137). -/
def mixCol (a : Col) : Col :=
  ⟨xtime a.r0 ^^^ xtime3 a.r1 ^^^ a.r2 ^^^ a.r3,
   a.r0 ^^^ xtime a.r1 ^^^ xtime3 a.r2 ^^^ a.r3,
   a.r0 ^^^ a.r1 ^^^ xtime a.r2 ^^^ xtime3 a.r3,
   xtime3 a.r0 ^^^ a.r1 ^^^ a.r2 ^^^ xtime a.r3⟩

/-- `MixColumns` (R137). -/
def mixColumns (b : Block) : Block := ⟨mixCol b.c0, mixCol b.c1, mixCol b.c2, mixCol b.c3⟩

/-- `AddRoundKey` (R138). -/
def addRoundKey (b k : Block) : Block :=
  ⟨xorCol b.c0 k.c0, xorCol b.c1 k.c1, xorCol b.c2 k.c2, xorCol b.c3 k.c3⟩

/-- `RCON[1..10]` (R139). -/
def rcons : List Byte :=
  [0x01#8, 0x02#8, 0x04#8, 0x08#8, 0x10#8, 0x20#8, 0x40#8, 0x80#8, 0x1b#8, 0x36#8]

/-- `RK[j]` from `RK[j-1]` and `RCON[j]`: the words `W[4j] .. W[4j+3]` (R141). -/
def nextRoundKey (rcon : Byte) (k : Block) : Block :=
  let w0 := xorCol k.c0 (xorCol (subCol (rotCol k.c3)) ⟨rcon, 0#8, 0#8, 0#8⟩)
  let w1 := xorCol k.c1 w0
  let w2 := xorCol k.c2 w1
  ⟨w0, w1, w2, xorCol k.c3 w2⟩

/-- The round keys that follow `k` under these round constants, `k` first. -/
def roundKeysFrom : List Byte → Block → List Block
  | [], k => [k]
  | rcon :: rest, k => k :: roundKeysFrom rest (nextRoundKey rcon k)

/-- `RK[0..10]`, a function of the key alone (R23, R141). -/
def roundKeys (key : Block) : List Block := roundKeysFrom rcons key

/-- The rounds after the first `AddRoundKey`; the last has no `MixColumns` (R142). -/
def cipherRounds : List Block → Block → Block
  | [], s => s
  | [k], s => addRoundKey (shiftRows (subBytes s)) k
  | k :: ks, s => cipherRounds ks (addRoundKey (mixColumns (shiftRows (subBytes s))) k)

/-- `BlockEnc(K, x)`, the AES-128 forward cipher (R142). -/
def blockEnc (key x : Block) : Block :=
  cipherRounds (roundKeys key).tail (addRoundKey x key)

/-- `BlockEnc(KEY, ·)` as this build has it (R10, R131): the forward cipher of R142, or the other block function its
parameter names (log entry 28). -/
def blockEncOf (P : Params) (key : Block) : Block → Block :=
  match P.blockEnc with
  | .aes128 => blockEnc key
  | .other n => Config.blockFunction n key

/-! ### Cipher feedback (R145 to R148), over any block function (R131) -/

/-- `n` blocks of `CfbEnc` from feedback `fb` (R147). -/
def cfbEncBlocks (enc : Block → Block) : Nat → Block → Bytes → Bytes
  | 0, _, _ => []
  | n + 1, fb, p =>
    let c := xorBytes (p.take blockBytes) (blockToBytes (enc fb))
    c ++ cfbEncBlocks enc n (blockOfBytes c) (p.drop blockBytes)

/-- `n` blocks of `CfbDec` from feedback `fb`: the feedback is the ciphertext block (R148). -/
def cfbDecBlocks (enc : Block → Block) : Nat → Block → Bytes → Bytes
  | 0, _, _ => []
  | n + 1, fb, c =>
    xorBytes (c.take blockBytes) (blockToBytes (enc fb)) ++
      cfbDecBlocks enc n (blockOfBytes (c.take blockBytes)) (c.drop blockBytes)

/-- `ceil(n / 16)` (R147). -/
def blockCount (n : Nat) : Nat := (n + (blockBytes - 1)) / blockBytes

/-- `CfbEnc(K, iv, p)`, `enc` standing for `BlockEnc(K, ·)` (R147). -/
def cfbEnc (enc : Block → Block) (iv : Block) (p : Bytes) : Bytes :=
  cfbEncBlocks enc (blockCount p.length) iv p

/-- `CfbDec(K, iv, c)`, `enc` standing for `BlockEnc(K, ·)` (R148). -/
def cfbDec (enc : Block → Block) (iv : Block) (c : Bytes) : Bytes :=
  cfbDecBlocks enc (blockCount c.length) iv c

/-! ### The operations -/

/-- What `ENCRYPT` returns when `iv` was drawn: `iv ++ CfbEnc(KEY, iv, plaintext)` (R150), `enc` standing for
`BlockEnc(KEY, ·)`. -/
def sealBytes (enc : Block → Block) (iv : Block) (plaintext : Bytes) : Bytes :=
  blockToBytes iv ++ cfbEnc enc iv plaintext

/-- `DECRYPT(d)` (R151), `enc` standing for `BlockEnc(KEY, ·)`. -/
def openBytes (enc : Block → Block) (d : Bytes) : Except ErrCode Bytes :=
  if d.length < blockBytes then .error .shortCiphertext
  else .ok (cfbDec enc (blockOfBytes (d.take blockBytes)) (d.drop blockBytes))

/-- ENCRYPT at a context (R150): it draws once from the context's `RNG_IN`; while the random source has no answer the command
stays pending (R278; log entry 12); `RngErr` is consumed and reported (R267). Before `KEY` is loaded it has no meaning (R305,
U5). -/
def Ctx.encrypt (P : Params) (key : Option Block) (plaintext : Bytes) (c : Ctx) : Turn :=
  match key with
  | none => .error (.refuses .keyNotLoaded)
  | some k =>
    match c.rngDraw with
    | none => .error .waits
    | some (.rngErr, c') => .ok (c'.respond (.err .rngFailure))
    | some (.ok iv, c') => .ok ((c'.touch [.cipher]).respond (.bytes (sealBytes (blockEncOf P k) iv plaintext)))

/-- DECRYPT at a context (R151). An error writes no state (R267). Before `KEY` is loaded it has no meaning (R305, U5). -/
def Ctx.decrypt (P : Params) (key : Option Block) (d : Bytes) (c : Ctx) : Turn :=
  match key with
  | none => .error (.refuses .keyNotLoaded)
  | some k =>
    match openBytes (blockEncOf P k) d with
    | .error e => .ok (c.respond (.err e))
    | .ok p => .ok ((c.touch [.cipher]).respond (.bytes p))

/-- ENCRYPT (R150). -/
def execEncrypt (plaintext : Bytes) (s : State) : Host.Outcome State Fault Refusal :=
  s.perform (Ctx.encrypt s.params s.cipherKey plaintext)

/-- DECRYPT (R151). -/
def execDecrypt (d : Bytes) (s : State) : Host.Outcome State Fault Refusal :=
  s.perform (Ctx.decrypt s.params s.cipherKey d)

end Sys2Proof.Machine
end

