-- ==== Sys2Proof/Machine/Codec.lean ====
section
/-! DEFINITION. The packet codec (42_codec.md): the packet builders, the deframer, and the meanings of ENCODE,
DECODE, MKDATA and MKACK. -/

namespace Sys2Proof.Machine

open Sys2Proof

/-! ### The packet builders (R176, R177) -/

/-- `MKDATA(seq, payload)` (R176): the checksum is over the payload as given. -/
def makeData (seq : Word) (payload : Bytes) : Except FramingError Packet :=
  if payload.length > lenMax then .error .oversizePayload
  else .ok (packetOf kindData seq (crc32 payload) (lenField payload.length) payload)

/-- `MKACK(seq)` (R177). -/
def makeAck (seq : Word) : Packet := packetOf kindAck seq (crc32 []) 0#16 []

/-- `ENCODE(MKACK(seq))`, which cannot fail: the payload is empty (R88, R235). -/
def ackFrame (seq : Word) : Bytes :=
  frameBytes kindAck seq (makeAck seq).checksum (makeAck seq).payloadLength (makeAck seq).payload

/-! ### Framing a byte stream (R178, R179) -/

/-- `Deframe()` (R179): the first whole frame of `rxbuf`, its bytes removed; nothing while there is none. -/
def Ctx.deframe (c : Ctx) : Option (Packet × Ctx) :=
  match decodePacket c.rxbuf with
  | .error _ => none
  | .ok (p, n) => some (p, { c with rxbuf := c.rxbuf.drop n }.touch [.pk])

/-! ### The operations -/

/-- ENCODE (R172). It writes no register: of the packet registers it is a reader alone (R39, R170). -/
def execEncode (p : Packet) (s : State) : Host.Outcome State Fault Refusal :=
  match encodePacket p with
  | .error e => s.reply (.err (framingErr e))
  | .ok f => s.reply (.bytes f)

/-- DECODE (R174). An error writes no state (R267). -/
def execDecode (b : Bytes) (s : State) : Host.Outcome State Fault Refusal :=
  match decodePacket b with
  | .error e => s.reply (.err (framingErr e))
  | .ok (p, n) => s.answer [.pk] (.decoded p n)

/-- MKDATA (R176). An error writes no state (R267). -/
def execMkdata (seq : Word) (payload : Bytes) (s : State) : Host.Outcome State Fault Refusal :=
  match makeData seq payload with
  | .error e => s.reply (.err (framingErr e))
  | .ok p => s.answer [.crc, .pk] (.packet p)

/-- MKACK (R177). It cannot fail. -/
def execMkack (seq : Word) (s : State) : Host.Outcome State Fault Refusal :=
  s.answer [.crc, .pk] (.packet (makeAck seq))

end Sys2Proof.Machine
end

