-- ==== Sys2Proof/Machine/Sender.lean ====
section
/-! DEFINITION. The sender sequencer (43_sender.md): its steps as turns of a context, and the meaning of SEND. -/

namespace Sys2Proof.Machine

open Sys2Proof

/-! ### Sending one chunk (R192 to R195) -/

/-- The wait for the acknowledgment begins, once the write answered `Ok` (R192, R285). -/
def Ctx.awaitAck (P : Params) (c : Ctx) : Ctx :=
  { c with mismatchSeen := false, txState := .awaitingAck }.armTimer P

/-- The last stages of `SendChunk`: `MKDATA`, `ENCODE`, `TxWrite` (R192). An oversize payload cannot occur here (R193). -/
def Ctx.sendPayload (P : Params) (payload : Bytes) (c : Ctx) : Turn :=
  match makeData c.seqCtr payload with
  | .error e => .ok (c.fail (framingErr e))
  | .ok p =>
    match encodePacket p with
    | .error e => .ok (c.fail (framingErr e))
    | .ok f =>
      match (c.touch [.crc, .pk, .frame]).txWrite f with
      | none => .error .waits
      | some (.writeErr _, c') => .ok (c'.fail .writeFailure)
      | some (.ok, c') => .ok (c'.awaitAck P)

/-- The middle of `SendChunk`, for a non-empty chunk: `ENCRYPT` with its one draw, then the rest (R192). Before `KEY` is loaded
it has no meaning (R305, U5). -/
def Ctx.sendPlain (P : Params) (key : Option Block) (b : Bytes) (c : Ctx) : Turn :=
  match key with
  | none => .error (.refuses .keyNotLoaded)
  | some k =>
    match c.rngDraw with
    | none => .error .waits
    | some (.rngErr, c') => .ok (c'.fail .rngFailure)
    | some (.ok iv, c') => (c'.touch [.cipher]).sendPayload P (sealBytes (blockEncOf P k) iv b)

/-- Step `SendChunk` (R192): enabled in `Fetch`, atomic, its stages in order, each failure ending it; a zero-length chunk
ends the transfer (R195). -/
def Ctx.sendChunk (P : Params) (key : Option Block) (c : Ctx) : Turn :=
  if c.txState ≠ .fetch then .error .waits
  else
    match c.chunkRead with
    | none => .error .waits
    | some (.srcErr, c') => .ok (c'.fail .srcReadFailure)
    | some (.chunk b, c') =>
      if b.length > chunkBytes then .error (.refuses .chunkTooLong)
      else if b = [] then .ok { c'.touch [.chunk] with txState := .done }
      else (c'.touch [.chunk]).sendPlain P key b

/-! ### Waiting for the acknowledgment (R196 to R203) -/

/-- `Accept()` (R198). -/
def Ctx.accept (c : Ctx) : Ctx := { c with timerArmed := false, txState := .acked }

/-- `Discard(p)` (R199): the timer is not reloaded (R286). -/
def Ctx.discard (p : Packet) (c : Ctx) : Ctx := { c with mismatchSeen := c.mismatchAfter p }

/-- The matcher's verdict on one decoded packet (R197, R198, R199). -/
def Ctx.ackPacket (p : Packet) (c : Ctx) : Ctx :=
  if c.isMatch p then c.accept else c.discard p

/-- The loop of `AckRead` in `Reassemble` framing (R200), over at most `n` frames: it ends at a match or when no whole
frame is left. -/
def Ctx.ackFrames : Nat → Ctx → Ctx
  | 0, c => c
  | n + 1, c =>
    match c.deframe with
    | none => c
    | some (p, c') => if c'.isMatch p then c'.accept else Ctx.ackFrames n (c'.discard p)

/-- What `AckRead` does with the bytes of a read (R197, R200). A frame takes at least 11 bytes, so there are no more
frames than bytes. -/
def Ctx.ackBytes (P : Params) (b : Bytes) (c : Ctx) : Ctx :=
  match P.rxFraming with
  | .perRead =>
    match decodePacket b with
    | .error e => c.fail (framingErr e)
    | .ok (p, _) => (c.touch [.pk]).ackPacket p
  | .reassemble => Ctx.ackFrames (c.rxbuf ++ b).length { c with rxbuf := c.rxbuf ++ b }

/-- Step `AckRead` (R197, R200, R202, R203): enabled in `AwaitingAck` when `RX_IN` has a message. -/
def Ctx.ackRead (P : Params) (c : Ctx) : Turn :=
  if c.txState ≠ .awaitingAck then .error .waits
  else
    match c.rxNext with
    | none => .error .waits
    | some (.eof, c') => .ok (c'.fail .endOfStream)
    | some (.readErr, c') => .ok (c'.fail .readFailure)
    | some (.read b, c') =>
      if b.length > P.rxBufBytes then .error (.refuses .readTooLong)
      else .ok ((c'.touch [.rxRead]).ackBytes P b)

/-- Step `AckTimeout` (R201): enabled in `AwaitingAck` when the timer has expired (R287). -/
def Ctx.ackTimeout (c : Ctx) : Turn :=
  if c.txState = .awaitingAck ∧ c.timerExpired then .ok (c.fail c.timeoutCause) else .error .waits

/-! ### After the acknowledgment (R204, R209) -/

/-- Step `NextChunk` (R204): no meaning at `seq_ctr = 0xFFFFFFFF` (R209). -/
def Ctx.nextChunk (c : Ctx) : Turn :=
  if c.txState ≠ .acked then .error .waits
  else if c.seqCtr = 0xFFFFFFFF#32 then .error (.refuses .seqOverflow)
  else .ok { c with seqCtr := c.seqCtr + 1#32, txState := .fetch }

/-! ### Start (R190) -/

/-- The registers as SEND leaves them (R190). -/
def Ctx.startSender (c : Ctx) : Ctx :=
  { c with
    role := .sender
    seqCtr := seqFirst
    mismatchSeen := false
    timerArmed := false
    errClass := 0#3
    errCause := 0#3
    errSeq := 0#32
    rxbuf := []
    txState := .fetch }

/-- SEND (R190): it starts the sequencer of an idle context without a role, and is refused with no effect on any other
(D25). The answer goes out where the command came in (R52; log entry 27). -/
def execSend (ctx : Nat) (s : State) : Host.Outcome State Fault Refusal :=
  match s.ctx? ctx with
  | none => .fault .noSuchContext
  | some c =>
    if c.role = .none ∧ c.txState = .idle then (s.setCtx ctx c.startSender).reply .started
    else s.reply .errRefused

end Sys2Proof.Machine
end

