-- ==== Sys2Proof/Machine/Receiver.lean ====
section
/-! DEFINITION. The receiver sequencer (44_receiver.md): the handling of one packet, the step RxRead as a turn of a
context, and the meaning of SERVE. -/

namespace Sys2Proof.Machine

open Sys2Proof

/-! ### One packet (R234 to R238, R243) -/

/-- The acknowledgment of a valid Data packet (R235): one frame written back; a failed write is an event and no more
(R243). It waits while the connection has not answered (R278). -/
def Ctx.sendAck (seq : Word) (c : Ctx) : Turn :=
  match (c.touch [.crc, .pk, .frame]).txWrite (ackFrame seq) with
  | none => .error .waits
  | some (.ok, c') => .ok c'
  | some (.writeErr _, c') => .ok (c'.emit (evAckWriteFail seq))

/-- Delivery of a valid Data packet, and its decryption under `RX_AUTO_DECRYPT` (R235, R238), which has no meaning before
`KEY` is loaded (R305, U5). -/
def Ctx.deliver (P : Params) (key : Option Block) (p : Packet) (c : Ctx) : Turn :=
  let c1 := (c.emit (evData p.sequenceNumber p.payloadLength)).putPacket p
  if P.autoDecrypt then
    match key with
    | none => .error (.refuses .keyNotLoaded)
    | some k =>
      match openBytes (blockEncOf P k) p.payload with
      | .error _ => .ok (c1.emit (evDecryptFail p.sequenceNumber p.payloadLength))
      | .ok t => .ok ((c1.touch [.cipher]).putPlain p.sequenceNumber t)
  else .ok c1

/-- `HandleData(p)` (R235): the acknowledgment first, whatever the decryption gives. -/
def Ctx.handleData (P : Params) (key : Option Block) (p : Packet) (c : Ctx) : Turn :=
  match c.sendAck p.sequenceNumber with
  | .error e => .error e
  | .ok c' => c'.deliver P key p

/-- `HandlePacket(p)` (R234): the checksum first, then the kind. -/
def Ctx.handlePacket (P : Params) (key : Option Block) (p : Packet) (c : Ctx) : Turn :=
  let c1 := c.touch [.crc]
  if verifyPacket p then
    if p.kind = kindData then c1.handleData P key p
    else if p.kind = kindAck then .ok (c1.emit (evUnexpectedAck p.sequenceNumber p.payloadLength))
    else .ok (c1.emit (evUnknownKind p.kind p.sequenceNumber p.payloadLength))
  else .ok (c1.emit (evChecksumFail p.kind p.sequenceNumber p.payloadLength))

/-! ### One read (R232, R233, R239) -/

/-- The loop of `RxRead` in `Reassemble` framing (R239), over at most `n` frames. -/
def Ctx.rxFrames (P : Params) (key : Option Block) : Nat → Ctx → Turn
  | 0, c => .ok c
  | n + 1, c =>
    match c.deframe with
    | none => .ok c
    | some (p, c') =>
      match c'.handlePacket P key p with
      | .error e => .error e
      | .ok c'' => Ctx.rxFrames P key n c''

/-- What `RxRead` does with the bytes of a read (R232, R239). A frame takes at least 11 bytes, so there are no more frames
than bytes. -/
def Ctx.rxBytes (P : Params) (key : Option Block) (b : Bytes) (c : Ctx) : Turn :=
  match P.rxFraming with
  | .perRead =>
    match decodePacket b with
    | .error e => .ok (c.emit (evDecodeFail e b.length))
    | .ok (p, _) => (c.touch [.pk]).handlePacket P key p
  | .reassemble => Ctx.rxFrames P key (c.rxbuf ++ b).length { c with rxbuf := c.rxbuf ++ b }

/-- End of the loop (R240 to R242): the residual bytes are dropped in `Reassemble` framing, and in `PerRead` framing none
are held; the context is `Closed`. -/
def Ctx.close (P : Params) (e : Event) (c : Ctx) : Ctx :=
  match P.rxFraming with
  | .perRead => { c.emit e with rxState := .closed }
  | .reassemble => { c.emit e with rxbuf := [], rxState := .closed }

/-- The residual byte count `EV_EOS` reports (R240, R241): 0 in `PerRead` framing. -/
def Ctx.residue (P : Params) (c : Ctx) : Nat :=
  match P.rxFraming with
  | .perRead => 0
  | .reassemble => c.rxbuf.length

/-- Step `RxRead` (R232, R239): enabled in `Serving` when `RX_IN` has a message, and, being atomic, when the connection
answers the acknowledgments it writes. -/
def Ctx.rxRead (P : Params) (key : Option Block) (c : Ctx) : Turn :=
  if c.rxState ≠ .serving then .error .waits
  else
    match c.rxNext with
    | none => .error .waits
    | some (.eof, c') => .ok (c'.close P (evEos (c.residue P)))
    | some (.readErr, c') => .ok (c'.close P evReadError)
    | some (.read b, c') =>
      if b.length > P.rxBufBytes then .error (.refuses .readTooLong)
      else (c'.touch [.rxRead]).rxBytes P key b

/-! ### Start (R230) -/

/-- The registers as SERVE leaves them (R230). -/
def Ctx.startReceiver (c : Ctx) : Ctx :=
  { c with role := .receiver, rxbuf := [], rxState := .serving }

/-- SERVE (R230): it starts the sequencer of an idle context without a role, and is refused with no effect on any other
(D25). The answer goes out where the command came in (R52; log entry 27). -/
def execServe (ctx : Nat) (s : State) : Host.Outcome State Fault Refusal :=
  match s.ctx? ctx with
  | none => .fault .noSuchContext
  | some c =>
    if c.role = .none ∧ c.rxState = .idle then (s.setCtx ctx c.startReceiver).reply .started
    else s.reply .errRefused

end Sys2Proof.Machine
end

