-- ==== Sys2Proof/Machine/Frames.lean ====
section
/-! DEFINITION. The meanings of the frame rows DATA, ACKF and UNKNOWN: what a frame does to the context that reads
it (the context `cur`, log entry 13). -/

namespace Sys2Proof.Machine

open Sys2Proof

/-- A whole frame read by a context: a receiver in `Serving` handles the packet (R234), a sender in `AwaitingAck` matches it
(R198, R199). In any other state a context takes nothing from its connection (R59, R196). -/
def Ctx.receive (P : Params) (key : Option Block) (p : Packet) (c : Ctx) : Turn :=
  if c.rxState = .serving then c.handlePacket P key p
  else if c.txState = .awaitingAck then .ok (c.ackPacket p)
  else .error .waits

/-- A frame read by the context `cur`. -/
def State.receive (p : Packet) (s : State) : Host.Outcome State Fault Refusal :=
  s.turn s.cur (Ctx.receive s.params s.cipherKey p)

/-- DATA: at a receiver R234 and R235, at a waiting sender R199. -/
def execData (seq cks : Word) (len : Half) (payload : Bytes) (s : State) : Host.Outcome State Fault Refusal :=
  s.receive (packetOf kindData seq cks len payload)

/-- ACKF: at a waiting sender R198 and R199, at a receiver R234 and R236. -/
def execAckf (seq cks : Word) (len : Half) (payload : Bytes) (s : State) : Host.Outcome State Fault Refusal :=
  s.receive (packetOf kindAck seq cks len payload)

/-- UNKNOWN: at a receiver R234 and R237, at a waiting sender R199. -/
def execUnknown (kind : Byte) (seq cks : Word) (len : Half) (payload : Bytes) (s : State) :
    Host.Outcome State Fault Refusal :=
  s.receive (packetOf kind seq cks len payload)

end Sys2Proof.Machine
end

