-- ==== Sys2Proof/Machine/Reserved.lean ====
section
/-! DEFINITION. The six reserved command codes: "a model refuses them (gives them no meaning)" (R92, U8). -/

namespace Sys2Proof.Machine

open Sys2Proof

/-- The refusal of a reserved operation code (R92; log entry 9): the state plays no part. -/
def refuseReserved (op : BitVec 4) (_ : State) : Host.Outcome State Fault Refusal :=
  .refused (.reservedCommand op)

/-- RESERVED_0 (R92). -/
def execReserved0 (s : State) : Host.Outcome State Fault Refusal := refuseReserved 0x0#4 s

/-- RESERVED_B (R92). -/
def execReservedB (s : State) : Host.Outcome State Fault Refusal := refuseReserved 0xB#4 s

/-- RESERVED_C (R92). -/
def execReservedC (s : State) : Host.Outcome State Fault Refusal := refuseReserved 0xC#4 s

/-- RESERVED_D (R92). -/
def execReservedD (s : State) : Host.Outcome State Fault Refusal := refuseReserved 0xD#4 s

/-- RESERVED_E (R92). -/
def execReservedE (s : State) : Host.Outcome State Fault Refusal := refuseReserved 0xE#4 s

/-- RESERVED_F (R92). -/
def execReservedF (s : State) : Host.Outcome State Fault Refusal := refuseReserved 0xF#4 s

end Sys2Proof.Machine
end

