-- ==== Sys2Proof/Machine/Dispatch.lean ====
section
/-! DEFINITION. exec: one arm per constructor of Instr. -/

namespace Sys2Proof.Machine

open Sys2Proof

def exec (i : Instr) (s : State) : Host.Outcome State Fault Refusal :=
  match i with
  | .data seq cks len payload => Sys2Proof.Machine.execData seq cks len payload s
  | .ackf seq cks len payload => Sys2Proof.Machine.execAckf seq cks len payload s
  | .unknown kind seq cks len payload => Sys2Proof.Machine.execUnknown kind seq cks len payload s
  | .crc32 _ payload => Sys2Proof.Machine.execCrc32 payload s
  | .verify _ p => Sys2Proof.Machine.execVerify p s
  | .encrypt _ plaintext => Sys2Proof.Machine.execEncrypt plaintext s
  | .decrypt _ d => Sys2Proof.Machine.execDecrypt d s
  | .encode _ p => Sys2Proof.Machine.execEncode p s
  | .decode _ b => Sys2Proof.Machine.execDecode b s
  | .mkdata _ seq payload => Sys2Proof.Machine.execMkdata seq payload s
  | .mkack _ seq => Sys2Proof.Machine.execMkack seq s
  | .send ctx => Sys2Proof.Machine.execSend ctx s
  | .serve ctx => Sys2Proof.Machine.execServe ctx s
  | .reserved0 _ _ => Sys2Proof.Machine.execReserved0 s
  | .reservedB _ _ => Sys2Proof.Machine.execReservedB s
  | .reservedC _ _ => Sys2Proof.Machine.execReservedC s
  | .reservedD _ _ => Sys2Proof.Machine.execReservedD s
  | .reservedE _ _ => Sys2Proof.Machine.execReservedE s
  | .reservedF _ _ => Sys2Proof.Machine.execReservedF s

end Sys2Proof.Machine
end

