-- ==== Sys2Proof/Machine/Moves.lean ====
section
/-! DEFINITION. What each move of the schedule does, and how an instruction is placed where the machine takes it from
(log entries 4 and 14). -/

namespace Sys2Proof.Machine

open Sys2Proof

/-- The core takes the next command message on `CMD` of context `k`, decodes it and performs it at the ports of that context
(R52, R90); without one it waits. -/
def State.takeCommand (k : Nat) (s : State) : Host.Outcome State Fault Refusal :=
  match s.ctx? k with
  | none => .fault .noSuchContext
  | some c =>
    match c.cmdIn with
    | [] => .next s
    | m :: _ =>
      match decodeCmd m with
      | .ok i => exec i { s with cur := k }
      | .error _ => .refused (.malformedCommand m.op)

/-- One move (R4: atomic). A sequencer step that is not enabled changes nothing (log entry 12). -/
def runMove (m : Move) (s : State) : Host.Outcome State Fault Refusal :=
  match m with
  | .host k => s.takeCommand k
  | .sendChunk k => s.turn k (Ctx.sendChunk s.params s.cipherKey)
  | .ackRead k => s.turn k (Ctx.ackRead s.params)
  | .ackTimeout k => s.turn k Ctx.ackTimeout
  | .nextChunk k => s.turn k Ctx.nextChunk
  | .rxRead k => s.turn k (Ctx.rxRead s.params s.cipherKey)
  | .tick => .next { s with ctxs := s.ctxs.map Ctx.tick }
  | .resetCtx k discard => s.onCtx k (Ctx.disconnect discard)
  | .resetAll => .next s.resetAll
  | .loadKey key => s.loadKey key
  | .offerCmd k m => s.onCtx k fun c => { c with cmdIn := c.cmdIn ++ [m] }
  | .offerRng k r => s.onCtx k fun c => { c with rngIn := c.rngIn ++ [r] }
  | .offerChunk k b => s.onCtx k fun c => { c with chunkIn := c.chunkIn ++ [b] }
  | .answerTx k a => s.onCtx k fun c => { c with txAns := c.txAns ++ [a] }
  | .offerRx k r => s.onCtx k fun c => { c with rxIn := c.rxIn ++ [r] }

/-- A context with this one command pending. ENCRYPT draws once, so an answer is offered where none is (log entry 14). -/
def Ctx.placeCmd (m : CmdMsg) (c : Ctx) : Ctx :=
  { c with
    cmdIn := [m]
    rngIn := if m.op = 0x3#4 ∧ c.rngIn = [] then [.ok ⟨⟨0, 0, 0, 0⟩, ⟨0, 0, 0, 0⟩, ⟨0, 0, 0, 0⟩, ⟨0, 0, 0, 0⟩⟩] else c.rngIn }

/-- A command message placed so that the next step takes it: it is the one pending at context 0, its move the one move, and
`KEY` counts as loaded (log entry 14). -/
def State.placeCmd (m : CmdMsg) (s : State) : State :=
  { s with ctxs := s.ctxs.modify 0 (Ctx.placeCmd m), keyLoaded := true, sched := [.host 0] }

/-- A context about to read a whole frame `b`: a receiver in `Serving`, the frame's bytes in the one pending read, or, in
`Reassemble` framing, all but the last of them in `rxbuf`; and an answer for the acknowledgment (log entry 14). -/
def Ctx.placeFrame (P : Params) (b : Bytes) (c : Ctx) : Ctx :=
  match P.rxFraming with
  | .perRead =>
    { c with role := .receiver, rxState := .serving, rxIn := [.read b], txAns := .ok :: c.txAns }
  | .reassemble =>
    { c with
      role := .receiver
      rxState := .serving
      rxbuf := b.take (b.length - 1)
      rxIn := [.read (b.drop (b.length - 1))]
      txAns := .ok :: c.txAns }

/-- A frame placed so that the next step has context 0 read exactly it, `KEY` counting as loaded (log entry 14). -/
def State.placeFrame (b : Bytes) (s : State) : State :=
  { s with ctxs := s.ctxs.modify 0 (Ctx.placeFrame s.params b), keyLoaded := true, sched := [.rxRead 0] }

/-- A message placed where the next step takes it. -/
def State.placeMsg (m : Msg) (s : State) : State :=
  match m with
  | .frame b => s.placeFrame b
  | .cmd c => s.placeCmd c

end Sys2Proof.Machine
end

