-- ==== Sys2Proof/Machine/Step.lean ====
section
/-! DEFINITION. The step: it takes the next move of the schedule and runs it; and where the host places an instruction. -/

namespace Sys2Proof.Machine

open Sys2Proof

/-- One step. Without a move nothing happens: nothing runs until an agent acts (R302, R293). -/
def step (s : State) : Host.Outcome State Fault Refusal :=
  match s.sched with
  | [] => .next s
  | m :: rest => runMove m { s with sched := rest }

/-- The state with the instruction of a table word placed so that the next step runs it (log entry 14); a word the table
has no message for changes nothing. -/
def State.withFetchWord (s : State) (nbits w : Nat) : State :=
  match tableMsg nbits w with
  | none => s
  | some m => s.placeMsg m

end Sys2Proof.Machine
end

