-- ==== Sys2Proof/Safety.lean ====
section
/-! DEFINITION. What counts as a legal state and a safe run of FTCORE, in the terms claims use: the invariants of a
context's registers, the record of its writes, and the transitions the spec allows its sequencers. -/

namespace Sys2Proof.Machine

open Sys2Proof

/-! ### Outcomes -/

/-- The outcome is a next state of which `P` holds. -/
def Completes (P : State → Prop) (o : Host.Outcome State Fault Refusal) : Prop :=
  ∃ t, o = .next t ∧ P t

/-! ### Frames -/

/-- The frame of a packet, its length field as it stands (R80, R82). -/
def frameOf (p : Packet) : Bytes :=
  frameBytes p.kind p.sequenceNumber p.checksum p.payloadLength p.payload

/-- The frames of these packets, one after another. -/
def framesOf (ps : List Packet) : Bytes := ps.flatMap frameOf

/-! ### The registers of a context -/

/-- The causes a sender can report (R208): the decode causes in `PerRead` framing only; `OversizePayload` and `BadKey`
never (R144, R193). -/
def senderCauses (f : Framing) : List ErrCode :=
  [.srcReadFailure, .rngFailure, .writeFailure, .timeout, .ackSeqMismatch, .readFailure, .endOfStream] ++
    (match f with
     | .perRead => [.shortHeader, .truncatedPayload]
     | .reassemble => [])

/-- No whole frame stands at the front of these bytes (R179, R181). -/
def noWholeFrame (b : Bytes) : Prop := ∀ p n, decodePacket b ≠ .ok (p, n)

/-- A context in a state that the rules allow. -/
structure Ctx.Legal (P : Params) (c : Ctx) : Prop where
  /-- A sender sequencer outside `Idle` belongs to the role Sender (R24, R190). -/
  senderRole : c.txState ≠ .idle ↔ c.role = .sender
  /-- A receiver sequencer outside `Idle` belongs to the role Receiver (R24, R230). -/
  receiverRole : c.rxState ≠ .idle ↔ c.role = .receiver
  /-- The timer is armed in `AwaitingAck` and in no other state (R285, R287). -/
  timer : c.timerArmed = true ↔ c.txState = .awaitingAck
  /-- The timer counts down from `ACK_TIMEOUT_TICKS` (R285, R287). -/
  timerBound : c.ackTimer ≤ P.ackTimeoutTicks
  /-- The error registers are 0 outside `Failed` (R29). -/
  noError : c.txState ≠ .failed → c.errClass = 0#3 ∧ c.errCause = 0#3 ∧ c.errSeq = 0#32
  /-- In `Failed` they hold the chunk and a cause of R208 (R29, R206). -/
  error : c.txState = .failed →
    c.errSeq = c.seqCtr ∧ ∃ e ∈ senderCauses P.rxFraming, c.errClass = e.cls ∧ c.errCause = e.cause
  /-- Sequence numbers start at 1 and never wrap to 0 (R26, R209). -/
  seqPositive : c.seqCtr ≠ 0#32
  /-- A receiver between steps holds no whole frame (R239). -/
  waitingBytes : P.rxFraming = .reassemble → c.rxState = .serving → noWholeFrame c.rxbuf
  /-- `rxbuf` is used only in `Reassemble` framing (R30). -/
  perReadEmpty : P.rxFraming = .perRead → c.rxbuf = []
  /-- A closed receiver holds no residual bytes (R241). -/
  closedEmpty : c.rxState = .closed → c.rxbuf = []

/-- Every context is legal. -/
def State.Legal (s : State) : Prop := ∀ c ∈ s.ctxs, c.Legal s.params

/-! ### What a context has written -/

/-- The frame a conforming sender writes for chunk `n`: a Data frame of sequence number `n`, the checksum of its payload,
and 17 to 1040 bytes of payload (R87, R194). -/
def isDataFrame (n : Nat) (f : Bytes) : Prop :=
  ∃ payload : Bytes, 17 ≤ payload.length ∧ payload.length ≤ 1040 ∧
    f = frameBytes kindData (BitVec.ofNat 32 n) (crc32 payload) (lenField payload.length) payload

/-- How many frames a sender has written, by its state (R26, R69, R205): one per sequence number up to the one in
flight. -/
def Ctx.sentCount (c : Ctx) (n : Nat) : Prop :=
  match c.txState with
  | .idle => n = 0
  | .fetch | .done => n + 1 = c.seqCtr.toNat
  | .awaitingAck | .acked => n = c.seqCtr.toNat
  | .failed => n = c.seqCtr.toNat ∨ n + 1 = c.seqCtr.toNat

/-- Stop and wait: what stands on `TX_OUT` of a context on its present connection. -/
structure Ctx.StopAndWait (c : Ctx) : Prop where
  /-- A sender has written one frame per sequence number (R69). -/
  count : c.role = .sender → c.sentCount c.txOut.length
  /-- Its frames carry 1, 2, 3, ... in order (R26, R194). -/
  numbered : c.role = .sender → ∀ i r, c.txOut[i]? = some r → isDataFrame (i + 1) r.frame
  /-- Only the last write of a failed sender can have failed (R207, R210). -/
  answered : c.role = .sender → ∀ i r, c.txOut[i]? = some r →
    (i + 1 < c.txOut.length ∨ c.txState ≠ .failed) → r.answer = .ok
  /-- A receiver writes acknowledgments only (R235). -/
  acks : c.role = .receiver → ∀ r ∈ c.txOut, ∃ seq, r.frame = ackFrame seq
  /-- A context without a role has written nothing on its present connection (log entry 16). -/
  silent : c.role = .none → c.txOut = []

/-- Every context keeps stop and wait. -/
def State.StopAndWait (s : State) : Prop := ∀ c ∈ s.ctxs, c.StopAndWait

/-! ### Transitions -/

/-- The move is a reset of context `k` (R300). -/
def Move.resets (k : Nat) : Move → Bool
  | .resetCtx j _ => j == k
  | .resetAll => true
  | _ => false

/-- The move takes a command that performs this instruction. -/
def State.commands (s : State) (m : Move) (i : Instr) : Prop :=
  ∃ j c x xs, m = .host j ∧ s.ctx? j = some c ∧ c.cmdIn = x :: xs ∧ decodeCmd x = .ok i

/-- A packet that a read of `b` shows a sender: the read decoded as one frame (R197), or one of the whole frames that the
bytes received begin with (R200). -/
def Ctx.canRead (P : Params) (c : Ctx) (b : Bytes) (p : Packet) : Prop :=
  match P.rxFraming with
  | .perRead => ∃ n, decodePacket b = .ok (p, n)
  | .reassemble => ∃ ps rest, (∀ q ∈ ps, q.WellFormed) ∧ p.WellFormed ∧
      c.rxbuf ++ b = framesOf ps ++ frameOf p ++ rest

/-- The rows of R210: the move and the condition under which `tx_state` of context `k` goes from one value to another.
There are no other rows. -/
def TxEdge (s : State) (m : Move) (k : Nat) (c : Ctx) : TxState → TxState → Prop
  | .idle, .fetch => c.role = .none ∧ s.commands m (.send k)
  | .fetch, .done => m = .sendChunk k ∧ c.chunkIn.head? = some (.chunk [])
  | .fetch, .awaitingAck =>
    m = .sendChunk k ∧ ∃ b iv, b ≠ [] ∧ c.chunkIn.head? = some (.chunk b) ∧ c.rngIn.head? = some (.ok iv) ∧
      c.txAns.head? = some .ok
  | .fetch, .failed =>
    m = .sendChunk k ∧
      (c.chunkIn.head? = some .srcErr ∨
       ∃ b, b ≠ [] ∧ c.chunkIn.head? = some (.chunk b) ∧
         (c.rngIn.head? = some .rngErr ∨
          ∃ iv n, c.rngIn.head? = some (.ok iv) ∧ c.txAns.head? = some (.writeErr n)))
  | .awaitingAck, .acked =>
    m = .ackRead k ∧ ∃ b p, c.rxIn.head? = some (.read b) ∧ c.canRead s.params b p ∧ p.kind = 0x02#8 ∧
      p.sequenceNumber = c.seqCtr
  | .awaitingAck, .failed =>
    (m = .ackRead k ∧
      (c.rxIn.head? = some .eof ∨ c.rxIn.head? = some .readErr ∨
       (s.params.rxFraming = .perRead ∧
         ∃ b e, c.rxIn.head? = some (.read b) ∧ decodePacket b = .error e))) ∨
    (m = .ackTimeout k ∧ c.timerArmed = true ∧ c.ackTimer = 0)
  | .acked, .fetch => m = .nextChunk k ∧ c.seqCtr.toNat < 0xFFFFFFFF
  | _, _ => False

/-- The packets that a read of `b` shows a receiver: the one packet of the read, if it decodes (R232), or those of the whole
frames that the bytes held and read begin with (R239). -/
def Ctx.shows (P : Params) (c : Ctx) (b : Bytes) (ps : List Packet) : Prop :=
  match P.rxFraming with
  | .perRead =>
    match decodePacket b with
    | .error _ => ps = []
    | .ok (p, _) => ps = [p]
  | .reassemble => (∀ q ∈ ps, q.WellFormed) ∧ ∃ rest, c.rxbuf ++ b = framesOf ps ++ rest ∧ noWholeFrame rest

/-- How many acknowledgments a receiver writes for these packets: one per verified Data packet (R235). -/
def acksFor (ps : List Packet) : Nat := ps.countP fun p => p.kind == 0x01#8 && crc32 p.payload == p.checksum

/-- The rows of R244. -/
def RxEdge (s : State) (m : Move) (k : Nat) (c : Ctx) : RxState → RxState → Prop
  | .idle, .serving => c.role = .none ∧ s.commands m (.serve k)
  | .serving, .closed => m = .rxRead k ∧ (c.rxIn.head? = some .eof ∨ c.rxIn.head? = some .readErr)
  | _, _ => False

/-- The run of a context has ended (R321). -/
def Ctx.ended (c : Ctx) : Bool :=
  c.txState == .done || c.txState == .failed || c.rxState == .closed

/-- The registers of a context that the rules give meaning to between operations (R39), and what has gone out on its
ports; the working registers (U2) and the pending inputs are left out. -/
structure Ctx.View where
  role         : Role
  txState      : TxState
  seqCtr       : Word
  ackTimer     : Nat
  timerArmed   : Bool
  mismatchSeen : Bool
  errClass     : BitVec 3
  errCause     : BitVec 3
  errSeq       : Word
  rxbuf        : Bytes
  rxState      : RxState
  rsp          : List Response
  txOut        : List TxRecord
  pktOut       : List Packet
  plainOut     : List Plain
  evtOut       : List Event
  deriving DecidableEq, Repr

/-- The view of a context. -/
def Ctx.view (c : Ctx) : Ctx.View :=
  { role := c.role, txState := c.txState, seqCtr := c.seqCtr, ackTimer := c.ackTimer
    timerArmed := c.timerArmed, mismatchSeen := c.mismatchSeen, errClass := c.errClass
    errCause := c.errCause, errSeq := c.errSeq, rxbuf := c.rxbuf, rxState := c.rxState
    rsp := c.rsp, txOut := c.txOut, pktOut := c.pktOut, plainOut := c.plainOut, evtOut := c.evtOut }

/-- A view after `Fail(class, cause)` (R206): the four registers, the state, and the event `EV_TX_FAILED` (R276). -/
def Ctx.View.failed (e : ErrCode) (v : Ctx.View) : Ctx.View :=
  { v with
    errClass := e.cls
    errCause := e.cause
    errSeq := v.seqCtr
    timerArmed := false
    txState := .failed
    evtOut := v.evtOut ++ [⟨10#4, e.cls.setWidth 8 * 16#8 + e.cause.setWidth 8, v.seqCtr, 0#16⟩] }

/-- What is pending at a context's input ports (R52). -/
structure Ctx.Inputs where
  cmdIn   : List CmdMsg
  chunkIn : List ChunkMsg
  rngIn   : List RngMsg
  txAns   : List TxAnswer
  rxIn    : List RxMsg
  deriving DecidableEq, Repr

/-- The pending inputs of a context. -/
def Ctx.inputs (c : Ctx) : Ctx.Inputs :=
  { cmdIn := c.cmdIn, chunkIn := c.chunkIn, rngIn := c.rngIn, txAns := c.txAns, rxIn := c.rxIn }

/-! ### Frames: what an operation leaves unchanged -/

/-- Every working register outside these groups is kept. -/
def Work.KeepsBut (regs : List WorkReg) (w w' : Work) : Prop :=
  (.crc ∉ regs → w'.crcReg = w.crcReg) ∧
  (.cipher ∉ regs → w'.fb = w.fb ∧ w'.ks = w.ks) ∧
  (.pk ∉ regs → w'.pkKind = w.pkKind ∧ w'.pkSeq = w.pkSeq ∧ w'.pkCks = w.pkCks ∧ w'.pkLen = w.pkLen ∧
    w'.payloadBuf = w.payloadBuf) ∧
  (.chunk ∉ regs → w'.chunkBuf = w.chunkBuf) ∧
  (.frame ∉ regs → w'.frameBuf = w.frameBuf) ∧
  (.rxRead ∉ regs → w'.rxReadBuf = w.rxReadBuf)

/-- The context has become `c'`: its view and its inputs are these, and it kept the working registers outside `regs`. -/
def Ctx.Became (v : Ctx.View) (i : Ctx.Inputs) (regs : List WorkReg) (c c' : Ctx) : Prop :=
  c'.view = v ∧ c'.inputs = i ∧ c.work.KeepsBut regs c'.work

/-- Nothing but context `k` (and the model's own `cur`) has changed. -/
def State.OnlyCtx (k : Nat) (s t : State) : Prop :=
  t = { s with ctxs := t.ctxs, cur := t.cur } ∧ t.ctxs.length = s.ctxs.length ∧
    ∀ j, j ≠ k → t.ctx? j = s.ctx? j

/-- Context `k`, which was `c`, has become a context of this view and these inputs, and nothing else has changed. -/
def State.CtxBecame (k : Nat) (c : Ctx) (v : Ctx.View) (i : Ctx.Inputs) (regs : List WorkReg) (s t : State) : Prop :=
  s.OnlyCtx k t ∧ ∃ c', t.ctx? k = some c' ∧ c.Became v i regs c'

/-- The command at the head of CMD of the context `cur`, which was `c`, has been answered by `r` on its RSP, and of the rest
of the state only its random answers (as given) and its working registers in `regs` have changed, and the model's own
`started`. -/
def State.Answered (c : Ctx) (r : Response) (rng : List RngMsg) (regs : List WorkReg) (s t : State) : Prop :=
  t.cur = s.cur ∧
    State.CtxBecame s.cur c { c.view with rsp := c.rsp ++ [r] } { c.inputs with cmdIn := c.cmdIn.tail, rngIn := rng } regs
      { s with started := true } t

/-- The move gives a turn to this context. -/
def Move.turnOf : Move → Option Nat
  | .sendChunk k | .ackRead k | .ackTimeout k | .nextChunk k | .rxRead k => some k
  | _ => none

/-- A view with the plaintext handed out reduced to its numbers and lengths: what does not depend on `KEY` (R279). -/
def Ctx.View.withoutPlain (v : Ctx.View) : Ctx.View × List (Word × Nat) :=
  ({ v with plainOut := [] }, v.plainOut.map fun x => (x.seq, x.bytes.length))

/-- What a turn shows with the plaintext reduced, or that the context waits or refuses. -/
def Turn.publicView (t : Turn) : Except Stop (Ctx.View × List (Word × Nat)) := t.map fun c => c.view.withoutPlain

end Sys2Proof.Machine
end

