-- ==== Sys2Proof/Certificates/Slice0/Obligations.lean ====
section
/-! DEFINITION. The statements about the model, each with the rule of spec/ it formalises. -/

open Sys2Proof Sys2Proof.Machine

/-! ### Encodings -/

/-- R82, R91, R95: decoding the message of a well-formed instruction gives the instruction back, for every constructor and
every operand; of a frame, also when other bytes follow it, which are left. -/
def Obligations.DecodeEncodeEveryInstruction : Prop :=
  ∀ i : Instr, i.WellFormed = true →
    decode (encode i) = .ok (i, []) ∧
    ∀ b rest, encode i = .frame b → decode (.frame (b ++ rest)) = .ok (i, rest)

/-- R82, R91: a message that decodes is the encoding of what it decodes to, with the bytes left over, and what it decodes
to is well-formed. -/
def Obligations.DecodedMessagesEncodeBack : Prop :=
  ∀ (m : Msg) (i : Instr) (rest : Bytes), decode m = .ok (i, rest) →
    i.WellFormed = true ∧
    match m with
    | .frame b => ∃ f, encode i = .frame f ∧ b = f ++ rest
    | .cmd _ => encode i = m ∧ rest = []

/-- R180. -/
def Obligations.PacketRoundTrip : Prop :=
  (∀ p : Packet, p.WellFormed →
    ∃ f, encodePacket p = .ok f ∧ decodePacket f = .ok (p, 11 + p.payload.length)) ∧
  ∀ (b : Bytes) (p : Packet) (n : Nat), decodePacket b = .ok (p, n) → encodePacket p = .ok (b.take n)

/-- R173. -/
def Obligations.EncodeIsInjective : Prop :=
  (∀ p q : Packet, p.WellFormed → q.WellFormed → (encodePacket p = encodePacket q ↔ p = q)) ∧
  ∀ p : Packet, p.WellFormed → ∃ f, encodePacket p = .ok f ∧ f.length = 11 + p.payload.length

/-- R181: the length bytes are those at offsets 9 and 10. -/
def Obligations.DecodeFailsExactlyOnShortInput : Prop :=
  (∀ b : Bytes, (∃ e, decodePacket b = .error e) ↔
    b.length < 11 ∨ b.length < 11 + (unbe16 (b.getD 9 0) (b.getD 10 0)).toNat) ∧
  ∀ (p : Packet) (f : Bytes) (n : Nat), encodePacket p = .ok f → n < f.length →
    ∃ e, decodePacket (f.take n) = .error e

/-- R80, R83, R91, 95_test_vectors.md V4.1 to V4.3: a few messages written out from the encodings. -/
def Obligations.WrittenOutMessagesDecode : Prop :=
  decode (.frame [0x01, 0x00, 0x00, 0x00, 0x01, 0x35, 0x24, 0x41, 0xC2, 0x00, 0x03, 0x61, 0x62, 0x63]) =
    .ok (.data 1#32 0x352441C2#32 3#16 [0x61, 0x62, 0x63], []) ∧
  decode (.frame [0x02, 0xFF, 0xFF, 0xFF, 0xFF, 0x00, 0x00, 0x00, 0x00, 0x00, 0x00]) =
    .ok (.ackf 0xFFFFFFFF#32 0#32 0#16 [], []) ∧
  decode (.frame [0x7F, 0xDE, 0xAD, 0xBE, 0xEF, 0x01, 0x02, 0x03, 0x04, 0x00, 0x02, 0xAA, 0xBB]) =
    .ok (.unknown 0x7F#8 0xDEADBEEF#32 0x01020304#32 2#16 [0xAA, 0xBB], []) ∧
  decode (.cmd ⟨0b0001#4, 0, [.bytes [0x61]]⟩) = .ok (.crc32 0 [0x61], []) ∧
  decode (.cmd ⟨0b1010#4, 2, []⟩) = .ok (.serve 2, []) ∧
  decode (.cmd ⟨0b1111#4, 0, []⟩) = .ok (.reservedF 0 [], [])

/-! ### The CRC unit -/

/-- R112, R113: the 256 entries of the table, and the byte-table and msb-first forms, are the bit-serial form. -/
def Obligations.CrcFormsAgree : Prop :=
  (∀ n : Byte, crcTableAt n = crcShifts 8 (n.setWidth 32)) ∧ (∀ b : Bytes, crc32ByTable b = crc32 b) ∧
  ∀ b : Bytes, crc32MsbFirst b = crc32 b

/-- R116. -/
def Obligations.EmptyChecksumIsZero : Prop :=
  crc32 [] = 0x00000000#32 ∧ ∀ seq : Word, (makeAck seq).checksum = 0x00000000#32

/-- R118: a packet with its checksum verifies; one payload byte changed, it does not. -/
def Obligations.OneChangedByteIsDetected : Prop :=
  (∀ p : Packet, p.checksum = crc32 p.payload → verifyPacket p = true) ∧
  (∀ (b : Bytes) (i : Nat) (v : Byte), i < b.length → v ≠ b.getD i 0 → crc32 (b.set i v) ≠ crc32 b) ∧
  ∀ (p : Packet) (i : Nat) (v : Byte), p.checksum = crc32 p.payload → i < p.payload.length →
    v ≠ p.payload.getD i 0 → verifyPacket { p with payload := p.payload.set i v } = false

/-- R119: the difference of two checksums is the remainder of the difference, and no difference confined to four
consecutive bytes, not all zero, has remainder zero. -/
def Obligations.CrcDifferenceIsRemainder : Prop :=
  (∀ a b : Bytes, a.length = b.length → crc32 a ^^^ crc32 b = crcRemainder (xorBytes a b)) ∧
  ∀ (m n : Nat) (d : Bytes), d.length ≤ 4 → (∃ x ∈ d, x ≠ 0) →
    crcRemainder (List.replicate m 0#8 ++ d ++ List.replicate n 0#8) ≠ 0#32

/-! ### The cipher unit -/

/-- R141: the forty-four words of the key schedule, and the example. -/
def Obligations.KeyExpansion : Prop :=
  (∀ key : Block,
    let W := (roundKeys key).flatMap fun k => [k.c0, k.c1, k.c2, k.c3]
    (roundKeys key).length = 11 ∧ W.length = 44 ∧ (roundKeys key).head? = some key ∧
    ∀ i, 4 ≤ i → i < 44 →
      let t := W.getD (i - 1) default
      W.getD i default =
        xorCol (W.getD (i - 4) default)
          (if i % 4 = 0 then xorCol (subCol (rotCol t)) ⟨rcons.getD (i / 4 - 1) 0, 0, 0, 0⟩ else t)) ∧
  (let key := blockOfBytes [0x2B, 0x7E, 0x15, 0x16, 0x28, 0xAE, 0xD2, 0xA6, 0xAB, 0xF7, 0x15, 0x88, 0x09, 0xCF, 0x4F, 0x3C]
   (roundKeys key).map blockToBytes |>.getD 1 [] =
     [0xA0, 0xFA, 0xFE, 0x17, 0x88, 0x54, 0x2C, 0xB1, 0x23, 0xA3, 0x39, 0x39, 0x2A, 0x6C, 0x76, 0x05]) ∧
  (let key := blockOfBytes [0x2B, 0x7E, 0x15, 0x16, 0x28, 0xAE, 0xD2, 0xA6, 0xAB, 0xF7, 0x15, 0x88, 0x09, 0xCF, 0x4F, 0x3C]
   (roundKeys key).map blockToBytes |>.getD 10 [] =
     [0xD0, 0x14, 0xF9, 0xA8, 0xC9, 0xEE, 0x25, 0x89, 0xE1, 0x3F, 0x0C, 0xC8, 0xB6, 0x63, 0x0C, 0xA6])

/-- R142: ten rounds over the round keys, the last without `MixColumns`, and the two examples; and this is the block function
where the configuration field has its decided value (R131). -/
def Obligations.BlockCipherRounds : Prop :=
  (∀ (P : Params) (key : Block), P.blockEnc = .aes128 → blockEncOf P key = blockEnc key) ∧
  (∀ (key x : Block),
    let RK := fun j => (roundKeys key).getD j default
    let round := fun s j => addRoundKey (mixColumns (shiftRows (subBytes s))) (RK j)
    blockEnc key x =
      addRoundKey (shiftRows (subBytes ([1, 2, 3, 4, 5, 6, 7, 8, 9].foldl round (addRoundKey x (RK 0))))) (RK 10)) ∧
  blockToBytes (blockEnc
      (blockOfBytes [0x00, 0x01, 0x02, 0x03, 0x04, 0x05, 0x06, 0x07, 0x08, 0x09, 0x0A, 0x0B, 0x0C, 0x0D, 0x0E, 0x0F])
      (blockOfBytes [0x00, 0x11, 0x22, 0x33, 0x44, 0x55, 0x66, 0x77, 0x88, 0x99, 0xAA, 0xBB, 0xCC, 0xDD, 0xEE, 0xFF])) =
    [0x69, 0xC4, 0xE0, 0xD8, 0x6A, 0x7B, 0x04, 0x30, 0xD8, 0xCD, 0xB7, 0x80, 0x70, 0xB4, 0xC5, 0x5A] ∧
  blockToBytes (blockEnc (blockOfBytes (List.replicate 16 0)) (blockOfBytes (List.replicate 16 0))) =
    [0x66, 0xE9, 0x4B, 0xD4, 0xEF, 0x8A, 0x2C, 0x3B, 0x88, 0x4C, 0xFA, 0x59, 0xCA, 0x34, 0x2B, 0x2E]

/-- R149, for any block function (R131). -/
def Obligations.CfbRoundTrip : Prop :=
  ∀ (enc : Block → Block) (iv : Block) (p : Bytes),
    (cfbEnc enc iv p).length = p.length ∧ cfbEnc enc iv [] = [] ∧ cfbDec enc iv (cfbEnc enc iv p) = p

/-- R153, by the commands, for any block function (R131): what ENCRYPT answered, DECRYPT under the same key turns back, in
every state and at every context; `KEY` has been loaded (R305). The model's choice (log entry 3): the draw is from RNG_IN of
the context on whose CMD ENCRYPT came. -/
def Obligations.DecryptUndoesEncrypt : Prop :=
  ∀ (j k : Nat) (p : Bytes) (s : State) (c : Ctx) (iv : Block) (rs : List RngMsg), s.ctx? s.cur = some c →
    s.keyLoaded = true → c.rngIn = .ok iv :: rs →
    ∃ (s' : State) (c' : Ctx) (d : Bytes), exec (.encrypt j p) s = .next s' ∧ s'.ctx? s.cur = some c' ∧
      c'.rsp = c.rsp ++ [.bytes d] ∧ d = blockToBytes iv ++ cfbEnc (blockEncOf s.params s.key) iv p ∧
      ∀ (t : State) (e : Ctx), t.key = s.key → t.params.blockEnc = s.params.blockEnc → t.keyLoaded = true →
        t.ctx? t.cur = some e →
        ∃ t' e', exec (.decrypt k d) t = .next t' ∧ t'.ctx? t.cur = some e' ∧ e'.rsp = e.rsp ++ [.bytes p]

/-- R154, for any block function (R131): the results of ENCRYPT differ when the drawn vectors do. -/
def Obligations.DistinctVectorsDistinctResults : Prop :=
  ∀ (enc : Block → Block) (iv iv' : Block) (p : Bytes), iv ≠ iv' → sealBytes enc iv p ≠ sealBytes enc iv' p

/-! ### The commands: each answers, with its result, and leaves everything else as it was -/

/-- R114: CRC32. It cannot fail; only `crc_reg` is written. -/
def Obligations.Crc32Answers : Prop :=
  ∀ (k : Nat) (b : Bytes) (s : State) (c : Ctx), s.ctx? s.cur = some c →
    ∃ t, exec (.crc32 k b) s = .next t ∧ State.Answered c (.word (crc32 b)) c.rngIn [.crc] s t

/-- R115: VERIFY. It cannot fail, and reads the payload and the checksum alone. -/
def Obligations.VerifyAnswers : Prop :=
  ∀ (k : Nat) (p : Packet) (s : State) (c : Ctx), s.ctx? s.cur = some c →
    ∃ t, exec (.verify k p) s = .next t ∧
      State.Answered c (.bool (decide (crc32 p.payload = p.checksum))) c.rngIn [.crc] s t

/-- R150, R267: ENCRYPT draws once, and its one error is that of the random source; before `KEY` is loaded it has no meaning
(R305, U5). The model's choices: it draws from `RNG_IN` of the context on whose CMD it came (log entry 3), and while there is
no answer to draw (R278) it stays pending and changes nothing (log entry 12). -/
def Obligations.EncryptAnswers : Prop :=
  ∀ (k : Nat) (p : Bytes) (s : State) (c : Ctx), s.ctx? s.cur = some c →
    (s.keyLoaded = true →
      (∀ iv rs, c.rngIn = .ok iv :: rs →
        ∃ t, exec (.encrypt k p) s = .next t ∧
          State.Answered c (.bytes (blockToBytes iv ++ cfbEnc (blockEncOf s.params s.key) iv p)) rs [.cipher] s t) ∧
      (∀ rs, c.rngIn = .rngErr :: rs →
        ∃ t, exec (.encrypt k p) s = .next t ∧ State.Answered c (.err .rngFailure) rs [] s t) ∧
      (c.rngIn = [] → exec (.encrypt k p) s = .next s)) ∧
    (s.keyLoaded = false → exec (.encrypt k p) s = .refused .keyNotLoaded)

/-- R151, R155, R267: DECRYPT fails exactly below sixteen bytes; before `KEY` is loaded it has no meaning (R305, U5). -/
def Obligations.DecryptAnswers : Prop :=
  ∀ (k : Nat) (d : Bytes) (s : State) (c : Ctx), s.ctx? s.cur = some c →
    (s.keyLoaded = true → d.length < 16 →
      ∃ t, exec (.decrypt k d) s = .next t ∧ State.Answered c (.err .shortCiphertext) c.rngIn [] s t) ∧
    (s.keyLoaded = true → 16 ≤ d.length →
      ∃ t, exec (.decrypt k d) s = .next t ∧
        State.Answered c (.bytes (cfbDec (blockEncOf s.params s.key) (blockOfBytes (d.take 16)) (d.drop 16))) c.rngIn
          [.cipher] s t) ∧
    (s.keyLoaded = false → exec (.decrypt k d) s = .refused .keyNotLoaded)

/-- R172, R170, R267: ENCODE writes the length of the payload, fails exactly above 65535, and writes no register. -/
def Obligations.EncodeAnswers : Prop :=
  ∀ (k : Nat) (p : Packet) (s : State) (c : Ctx), s.ctx? s.cur = some c →
    (65535 < p.payload.length →
      ∃ t, exec (.encode k p) s = .next t ∧ State.Answered c (.err .oversizePayload) c.rngIn [] s t) ∧
    (p.payload.length ≤ 65535 →
      ∃ t, exec (.encode k p) s = .next t ∧
        State.Answered c
          (.bytes ([p.kind] ++ be32 p.sequenceNumber ++ be32 p.checksum ++ be16 (BitVec.ofNat 16 p.payload.length) ++
            p.payload)) c.rngIn [] s t)

/-- R174, R175, R267: DECODE, its two errors and the fields of its packet, by the offsets of R67. -/
def Obligations.DecodeAnswers : Prop :=
  ∀ (k : Nat) (b : Bytes) (s : State) (c : Ctx), s.ctx? s.cur = some c →
    let f := fun i => b.getD i 0
    let L := (unbe16 (f 9) (f 10)).toNat
    (b.length < 11 → ∃ t, exec (.decode k b) s = .next t ∧ State.Answered c (.err .shortHeader) c.rngIn [] s t) ∧
    (11 ≤ b.length → b.length < 11 + L →
      ∃ t, exec (.decode k b) s = .next t ∧ State.Answered c (.err .truncatedPayload) c.rngIn [] s t) ∧
    (11 + L ≤ b.length →
      ∃ t, exec (.decode k b) s = .next t ∧
        State.Answered c
          (.decoded
            { kind := f 0, sequenceNumber := unbe32 (f 1) (f 2) (f 3) (f 4), checksum := unbe32 (f 5) (f 6) (f 7) (f 8)
              payloadLength := unbe16 (f 9) (f 10), payload := (b.drop 11).take L } (11 + L)) c.rngIn [.pk] s t)

/-- R176, R267: MKDATA. -/
def Obligations.MkdataAnswers : Prop :=
  ∀ (k : Nat) (seq : Word) (b : Bytes) (s : State) (c : Ctx), s.ctx? s.cur = some c →
    (65535 < b.length →
      ∃ t, exec (.mkdata k seq b) s = .next t ∧ State.Answered c (.err .oversizePayload) c.rngIn [] s t) ∧
    (b.length ≤ 65535 →
      ∃ t, exec (.mkdata k seq b) s = .next t ∧
        State.Answered c
          (.packet
            { kind := 0x01#8, sequenceNumber := seq, checksum := crc32 b, payloadLength := BitVec.ofNat 16 b.length
              payload := b }) c.rngIn [.crc, .pk] s t)

/-- R177: MKACK. It cannot fail. -/
def Obligations.MkackAnswers : Prop :=
  ∀ (k : Nat) (seq : Word) (s : State) (c : Ctx), s.ctx? s.cur = some c →
    ∃ t, exec (.mkack k seq) s = .next t ∧
      State.Answered c
        (.packet
          { kind := 0x02#8, sequenceNumber := seq, checksum := 0x00000000#32, payloadLength := 0#16, payload := [] })
        c.rngIn [.crc, .pk] s t

/-- R190, R303: SEND starts the sender of an idle context without a role, and is refused, with no other effect, on any other
context. The model's choice (log entry 27): the answer goes out on RSP of the context on whose CMD the command came, which
may be another. -/
def Obligations.SendStarts : Prop :=
  ∀ (k : Nat) (s : State) (c d : Ctx), s.ctx? k = some c → s.ctx? s.cur = some d →
    (c.role = .none ∧ c.txState = .idle →
      exec (.send k) s = .next
        { s with
          ctxs := (s.ctxs.set k
            { c with
              role := .sender, txState := .fetch, seqCtr := 1#32, mismatchSeen := false, timerArmed := false
              errClass := 0#3, errCause := 0#3, errSeq := 0#32, rxbuf := [] }).modify s.cur
                fun x => { x with rsp := x.rsp ++ [.started], cmdIn := x.cmdIn.tail }
          started := true }) ∧
    (¬(c.role = .none ∧ c.txState = .idle) →
      exec (.send k) s = .next
        { s with
          ctxs := s.ctxs.set s.cur { d with rsp := d.rsp ++ [.errRefused], cmdIn := d.cmdIn.tail }, started := true })

/-- R230, R303: SERVE starts the receiver of an idle context without a role, and is refused, with no other effect, on any
other context. The model's choice (log entry 27): the answer goes out on RSP of the context on whose CMD the command came,
which may be another. -/
def Obligations.ServeStarts : Prop :=
  ∀ (k : Nat) (s : State) (c d : Ctx), s.ctx? k = some c → s.ctx? s.cur = some d →
    (c.role = .none ∧ c.rxState = .idle →
      exec (.serve k) s = .next
        { s with
          ctxs := (s.ctxs.set k { c with role := .receiver, rxState := .serving, rxbuf := [] }).modify s.cur
            fun x => { x with rsp := x.rsp ++ [.started], cmdIn := x.cmdIn.tail }
          started := true }) ∧
    (¬(c.role = .none ∧ c.rxState = .idle) →
      exec (.serve k) s = .next
        { s with
          ctxs := s.ctxs.set s.cur { d with rsp := d.rsp ++ [.errRefused], cmdIn := d.cmdIn.tail }, started := true })

/-- The model's choice (log entry 17), where R90 and R289 give the range of context numbers: SEND, SERVE, a frame, and a
command taken from CMD of a context, stop on a number outside it. -/
def Obligations.UnknownContextStops : Prop :=
  ∀ (k : Nat) (s : State) (seq cks : Word) (len : Half) (b : Bytes) (kind : Byte), s.ctxs.length ≤ k →
    exec (.send k) s = .fault .noSuchContext ∧
    exec (.serve k) s = .fault .noSuchContext ∧
    exec (.data seq cks len b) { s with cur := k } = .fault .noSuchContext ∧
    exec (.ackf seq cks len b) { s with cur := k } = .fault .noSuchContext ∧
    exec (.unknown kind seq cks len b) { s with cur := k } = .fault .noSuchContext ∧
    runMove (.host k) s = .fault .noSuchContext

/-- R92: the six reserved codes, whatever follows them, decode to their own rows, and every one is refused. -/
def Obligations.ReservedCommandsAreRefused : Prop :=
  ∀ (k : Nat) (args : List Arg) (s : State),
    (decodeCmd ⟨0x0#4, k, args⟩ = .ok (.reserved0 k args) ∧
      exec (.reserved0 k args) s = .refused (.reservedCommand 0x0#4)) ∧
    (decodeCmd ⟨0xB#4, k, args⟩ = .ok (.reservedB k args) ∧
      exec (.reservedB k args) s = .refused (.reservedCommand 0xB#4)) ∧
    (decodeCmd ⟨0xC#4, k, args⟩ = .ok (.reservedC k args) ∧
      exec (.reservedC k args) s = .refused (.reservedCommand 0xC#4)) ∧
    (decodeCmd ⟨0xD#4, k, args⟩ = .ok (.reservedD k args) ∧
      exec (.reservedD k args) s = .refused (.reservedCommand 0xD#4)) ∧
    (decodeCmd ⟨0xE#4, k, args⟩ = .ok (.reservedE k args) ∧
      exec (.reservedE k args) s = .refused (.reservedCommand 0xE#4)) ∧
    (decodeCmd ⟨0xF#4, k, args⟩ = .ok (.reservedF k args) ∧
      exec (.reservedF k args) s = .refused (.reservedCommand 0xF#4))

/-! ### The frame rows, at the context that reads them -/

/-- R235, R238, R243, R276: a verified Data frame at a receiver is acknowledged by one frame of eleven bytes, whatever the
write answers, then reported, handed to the host and decrypted; nothing else changes. Decrypting has no meaning before `KEY` is
loaded (R305, U5). The model's choice (log entry 12): while the connection has no answer for the write (R278) nothing
changes. -/
def Obligations.DataFrameAtReceiver : Prop :=
  ∀ (seq cks : Word) (len : Half) (b : Bytes) (s : State) (c : Ctx), s.ctx? s.cur = some c → c.rxState = .serving →
    crc32 b = cks →
    ((s.params.autoDecrypt = true → s.keyLoaded = true) → ∀ a as, c.txAns = a :: as →
      ∃ t, exec (.data seq cks len b) s = .next t ∧
        State.CtxBecame s.cur c
          { c.view with
            txOut := c.txOut ++ [⟨[0x02#8] ++ be32 seq ++ [0x00#8, 0x00#8, 0x00#8, 0x00#8] ++ [0x00#8, 0x00#8], a⟩]
            pktOut := c.pktOut ++
              [{ kind := 0x01#8, sequenceNumber := seq, checksum := cks, payloadLength := len, payload := b }]
            plainOut := c.plainOut ++
              (if s.params.autoDecrypt ∧ 16 ≤ b.length then
                [⟨seq, cfbDec (blockEncOf s.params s.key) (blockOfBytes (b.take 16)) (b.drop 16)⟩] else [])
            evtOut := c.evtOut ++ (if a = .ok then [] else [⟨6#4, 0#8, seq, 0#16⟩]) ++ [⟨1#4, 0#8, seq, len⟩] ++
              (if s.params.autoDecrypt ∧ b.length < 16 then [⟨7#4, 0#8, seq, len⟩] else []) }
          { c.inputs with txAns := as } [.crc, .pk, .frame, .cipher] s t) ∧
    (s.params.autoDecrypt = true → s.keyLoaded = false → c.txAns ≠ [] →
      exec (.data seq cks len b) s = .refused .keyNotLoaded) ∧
    (c.txAns = [] → exec (.data seq cks len b) s = .next s)

/-- R236, R276: a verified Acknowledgment frame at a receiver is reported and changes nothing. -/
def Obligations.AckFrameAtReceiver : Prop :=
  ∀ (seq cks : Word) (len : Half) (b : Bytes) (s : State) (c : Ctx), s.ctx? s.cur = some c → c.rxState = .serving →
    crc32 b = cks →
    ∃ t, exec (.ackf seq cks len b) s = .next t ∧
      State.CtxBecame s.cur c { c.view with evtOut := c.evtOut ++ [⟨4#4, 0#8, seq, len⟩] } c.inputs [.crc] s t

/-- R237, R276: a verified frame of unknown kind at a receiver is reported and changes nothing. -/
def Obligations.UnknownFrameAtReceiver : Prop :=
  ∀ (kind : Byte) (seq cks : Word) (len : Half) (b : Bytes) (s : State) (c : Ctx), s.ctx? s.cur = some c →
    c.rxState = .serving → crc32 b = cks → kind ≠ 0x01#8 → kind ≠ 0x02#8 →
    ∃ t, exec (.unknown kind seq cks len b) s = .next t ∧
      State.CtxBecame s.cur c { c.view with evtOut := c.evtOut ++ [⟨5#4, kind, seq, len⟩] } c.inputs [.crc] s t

/-- R234, R272, R276: a frame of any kind whose checksum is wrong is reported as that before its kind is looked at, and
changes nothing. -/
def Obligations.BadChecksumAtReceiver : Prop :=
  ∀ (kind : Byte) (seq cks : Word) (len : Half) (b : Bytes) (s : State) (c : Ctx), s.ctx? s.cur = some c →
    c.rxState = .serving → crc32 b ≠ cks →
    let becomes := fun (kind : Byte) (t : State) =>
      State.CtxBecame s.cur c { c.view with evtOut := c.evtOut ++ [⟨3#4, kind, seq, len⟩] } c.inputs [.crc] s t
    (∃ t, exec (.data seq cks len b) s = .next t ∧ becomes 0x01#8 t) ∧
    (∃ t, exec (.ackf seq cks len b) s = .next t ∧ becomes 0x02#8 t) ∧
    (∃ t, exec (.unknown kind seq cks len b) s = .next t ∧ becomes kind t)

/-- R198, R199, R286: at a sender that waits, an acknowledgment of the awaited number ends the wait, one of another number
sets `mismatch_seen`, and a frame of any other kind is dropped; the checksum is not looked at, and the timer is not
reloaded. -/
def Obligations.FramesAtWaitingSender : Prop :=
  ∀ (kind : Byte) (seq cks : Word) (len : Half) (b : Bytes) (s : State) (c : Ctx), s.ctx? s.cur = some c →
    c.rxState ≠ .serving → c.txState = .awaitingAck →
    (seq = c.seqCtr → ∃ t, exec (.ackf seq cks len b) s = .next t ∧
      State.CtxBecame s.cur c { c.view with timerArmed := false, txState := .acked } c.inputs [] s t) ∧
    (seq ≠ c.seqCtr → ∃ t, exec (.ackf seq cks len b) s = .next t ∧
      State.CtxBecame s.cur c { c.view with mismatchSeen := true } c.inputs [] s t) ∧
    (∃ t, exec (.data seq cks len b) s = .next t ∧ State.CtxBecame s.cur c c.view c.inputs [] s t) ∧
    (kind ≠ 0x02#8 → ∃ t, exec (.unknown kind seq cks len b) s = .next t ∧
      State.CtxBecame s.cur c c.view c.inputs [] s t)

/-- R59, R196 and the model's choice (log entry 13): a context that is neither serving nor waiting for an acknowledgment
takes nothing from its connection, so a frame there changes nothing. -/
def Obligations.FramesElsewhereAreLeft : Prop :=
  ∀ (kind : Byte) (seq cks : Word) (len : Half) (b : Bytes) (s : State) (c : Ctx), s.ctx? s.cur = some c →
    c.rxState ≠ .serving → c.txState ≠ .awaitingAck →
    exec (.data seq cks len b) s = .next s ∧ exec (.ackf seq cks len b) s = .next s ∧
    exec (.unknown kind seq cks len b) s = .next s

/-! ### The sender's steps -/

/-- R192, and R194, R195, R206, R273: the outcomes of `SendChunk`, one clause per way through its pseudocode, each with all it
changes; the frame written is that of R194. Encrypting has no meaning before `KEY` is loaded (R305, U5). -/
def Obligations.SendChunkOutcomes : Prop :=
  ∀ (k : Nat) (s : State) (c : Ctx), s.ctx? k = some c → c.txState = .fetch →
    let becomes := fun (v : Ctx.View) (i : Ctx.Inputs) (regs : List WorkReg) =>
      ∃ t, runMove (.sendChunk k) s = .next t ∧ State.CtxBecame k c v i regs s t
    (∀ ms, c.chunkIn = .srcErr :: ms →
      becomes (c.view.failed .srcReadFailure) { c.inputs with chunkIn := ms } []) ∧
    (∀ ms, c.chunkIn = .chunk [] :: ms →
      becomes { c.view with txState := .done } { c.inputs with chunkIn := ms } [.chunk]) ∧
    ∀ b ms, c.chunkIn = .chunk b :: ms → b ≠ [] → b.length ≤ 1024 →
      (s.keyLoaded = false → runMove (.sendChunk k) s = .refused .keyNotLoaded) ∧
      (s.keyLoaded = true → ∀ rs, c.rngIn = .rngErr :: rs →
        becomes (c.view.failed .rngFailure) { c.inputs with chunkIn := ms, rngIn := rs } [.chunk]) ∧
      (s.keyLoaded = true → ∀ v rs, c.rngIn = .ok v :: rs →
        let payload := blockToBytes v ++ cfbEnc (blockEncOf s.params s.key) v b
        let f := [0x01#8] ++ be32 c.seqCtr ++ be32 (crc32 payload) ++ be16 (BitVec.ofNat 16 (16 + b.length)) ++ payload
        f.length = 27 + b.length ∧
        (∀ n as, c.txAns = .writeErr n :: as →
          becomes (Ctx.View.failed .writeFailure { c.view with txOut := c.txOut ++ [⟨f, .writeErr n⟩] })
            { c.inputs with chunkIn := ms, rngIn := rs, txAns := as } [.chunk, .cipher, .crc, .pk, .frame]) ∧
        ∀ as, c.txAns = .ok :: as →
          becomes
            { c.view with
              txOut := c.txOut ++ [⟨f, .ok⟩]
              mismatchSeen := false
              ackTimer := 5 * s.params.tickHz
              timerArmed := true
              txState := .awaitingAck }
            { c.inputs with chunkIn := ms, rngIn := rs, txAns := as } [.chunk, .cipher, .crc, .pk, .frame])

/-- R197, R198, R199, R202, R203, R206: `AckRead` when one read is one frame. -/
def Obligations.AckReadPerRead : Prop :=
  ∀ (k : Nat) (s : State) (c : Ctx) (ms : List RxMsg), s.ctx? k = some c → c.txState = .awaitingAck →
    s.params.rxFraming = .perRead →
    let becomes := fun (v : Ctx.View) (regs : List WorkReg) =>
      ∃ t, runMove (.ackRead k) s = .next t ∧ State.CtxBecame k c v { c.inputs with rxIn := ms } regs s t
    (c.rxIn = .eof :: ms → becomes (c.view.failed .endOfStream) []) ∧
    (c.rxIn = .readErr :: ms → becomes (c.view.failed .readFailure) []) ∧
    ∀ b, c.rxIn = .read b :: ms → b.length ≤ s.params.rxBufBytes →
      (decodePacket b = .error .shortHeader → becomes (c.view.failed .shortHeader) [.rxRead]) ∧
      (decodePacket b = .error .truncatedPayload → becomes (c.view.failed .truncatedPayload) [.rxRead]) ∧
      ∀ p n, decodePacket b = .ok (p, n) →
        (p.kind = 0x02#8 ∧ p.sequenceNumber = c.seqCtr →
          becomes { c.view with timerArmed := false, txState := .acked } [.rxRead, .pk]) ∧
        (p.kind = 0x02#8 ∧ p.sequenceNumber ≠ c.seqCtr →
          becomes { c.view with mismatchSeen := true } [.rxRead, .pk]) ∧
        (p.kind ≠ 0x02#8 → becomes c.view [.rxRead, .pk])

/-- R200, R198, R199, R202, R206: `AckRead` with reassembly. The bytes held and read begin with whole frames: those before
the first match are discarded, the match ends the wait with the bytes after it kept, and without a match the incomplete
rest is kept and the wait goes on. -/
def Obligations.AckReadReassemble : Prop :=
  ∀ (k : Nat) (s : State) (c : Ctx) (ms : List RxMsg), s.ctx? k = some c → c.txState = .awaitingAck →
    s.params.rxFraming = .reassemble →
    let becomes := fun (v : Ctx.View) (regs : List WorkReg) =>
      ∃ t, runMove (.ackRead k) s = .next t ∧ State.CtxBecame k c v { c.inputs with rxIn := ms } regs s t
    (c.rxIn = .eof :: ms → becomes (c.view.failed .endOfStream) []) ∧
    (c.rxIn = .readErr :: ms → becomes (c.view.failed .readFailure) []) ∧
    ∀ b, c.rxIn = .read b :: ms → b.length ≤ s.params.rxBufBytes →
      ∀ (ps : List Packet) (rest : Bytes),
        (∀ q ∈ ps, q.WellFormed ∧ ¬(q.kind = 0x02#8 ∧ q.sequenceNumber = c.seqCtr)) →
        let seen := c.mismatchSeen || ps.any fun q => q.kind == 0x02#8
        (c.rxbuf ++ b = framesOf ps ++ rest → noWholeFrame rest →
          becomes { c.view with mismatchSeen := seen, rxbuf := rest } [.rxRead, .pk]) ∧
        ∀ p : Packet, p.WellFormed → p.kind = 0x02#8 → p.sequenceNumber = c.seqCtr →
          c.rxbuf ++ b = framesOf ps ++ frameOf p ++ rest →
          becomes { c.view with mismatchSeen := seen, rxbuf := rest, timerArmed := false, txState := .acked }
            [.rxRead, .pk]

/-- R201, R287: `AckTimeout` is enabled when the timer has expired and not before, and the cause it reports depends on
`mismatch_seen`. The model's choice (log entry 12): a move to it before that changes nothing. -/
def Obligations.AckTimeoutOutcomes : Prop :=
  ∀ (k : Nat) (s : State) (c : Ctx), s.ctx? k = some c → c.txState = .awaitingAck →
    (c.timerArmed = true → c.ackTimer = 0 →
      ∃ t, runMove (.ackTimeout k) s = .next t ∧
        State.CtxBecame k c (c.view.failed (if c.mismatchSeen then .ackSeqMismatch else .timeout)) c.inputs [] s t) ∧
    (c.timerArmed = false ∨ c.ackTimer ≠ 0 → runMove (.ackTimeout k) s = .next s)

/-- R204, R209: `NextChunk` counts up by one, and at 0xFFFFFFFF has no meaning and is refused. -/
def Obligations.NextChunkOutcomes : Prop :=
  ∀ (k : Nat) (s : State) (c : Ctx), s.ctx? k = some c → c.txState = .acked →
    (c.seqCtr.toNat < 0xFFFFFFFF →
      ∃ t v, runMove (.nextChunk k) s = .next t ∧ v.toNat = c.seqCtr.toNat + 1 ∧
        State.CtxBecame k c { c.view with seqCtr := v, txState := .fetch } c.inputs [] s t) ∧
    (c.seqCtr = 0xFFFFFFFF#32 → runMove (.nextChunk k) s = .refused .seqOverflow)

/-- R260: the class and the cause of every error. -/
def Obligations.ErrorCodes : Prop :=
  [ErrCode.shortHeader, .truncatedPayload, .oversizePayload, .shortCiphertext, .badKey, .rngFailure, .checksumMismatch,
    .readFailure, .writeFailure, .timeout, .endOfStream, .unknownKind, .ackSeqMismatch, .srcReadFailure].map
      (fun e => (e.cls, e.cause)) =
    [(1#3, 1#3), (1#3, 2#3), (1#3, 3#3), (2#3, 1#3), (2#3, 2#3), (2#3, 3#3), (3#3, 1#3), (4#3, 1#3), (4#3, 2#3),
     (4#3, 3#3), (4#3, 4#3), (5#3, 1#3), (5#3, 2#3), (6#3, 1#3)]

/-! ### The receiver's step -/

/-- R232, R233, R240, R242: `RxRead` when one read is one frame; what it does with a decoded packet is `HandlePacket`. The
model's choice: the length in `EV_DECODE_FAIL` is taken modulo 2^32 (log entry 18). -/
def Obligations.RxReadPerRead : Prop :=
  ∀ (k : Nat) (s : State) (c : Ctx) (ms : List RxMsg), s.ctx? k = some c → c.rxState = .serving →
    s.params.rxFraming = .perRead →
    let becomes := fun (v : Ctx.View) (i : Ctx.Inputs) (regs : List WorkReg) =>
      ∃ t, runMove (.rxRead k) s = .next t ∧ State.CtxBecame k c v i regs s t
    let taken := { c.inputs with rxIn := ms }
    (c.rxIn = .eof :: ms →
      becomes { c.view with evtOut := c.evtOut ++ [⟨8#4, 0#8, 0#32, 0#16⟩], rxState := .closed } taken []) ∧
    (c.rxIn = .readErr :: ms →
      becomes { c.view with evtOut := c.evtOut ++ [⟨9#4, 0#8, 0#32, 0#16⟩], rxState := .closed } taken []) ∧
    ∀ b, c.rxIn = .read b :: ms → b.length ≤ s.params.rxBufBytes →
      (decodePacket b = .error .shortHeader →
        becomes { c.view with evtOut := c.evtOut ++ [⟨2#4, 1#8, BitVec.ofNat 32 b.length, 0#16⟩] } taken [.rxRead]) ∧
      (decodePacket b = .error .truncatedPayload →
        becomes { c.view with evtOut := c.evtOut ++ [⟨2#4, 2#8, BitVec.ofNat 32 b.length, 0#16⟩] } taken [.rxRead]) ∧
      ∀ p n c', decodePacket b = .ok (p, n) → { c with rxIn := ms }.handlePacket s.params s.cipherKey p = .ok c' →
        becomes c'.view c'.inputs [.rxRead, .pk, .crc, .frame, .cipher]

/-- R239, R240, R241, R242: `RxRead` with reassembly. Every whole frame that the bytes held and read begin with is handled, in
order, and the incomplete rest is kept; at the end of the stream the rest is counted and dropped. No decode failure is ever
reported. The model's choice: the count in `EV_EOS` is taken modulo 2^32 (log entry 18). -/
def Obligations.RxReadReassemble : Prop :=
  ∀ (k : Nat) (s : State) (c : Ctx) (ms : List RxMsg), s.ctx? k = some c → c.rxState = .serving →
    s.params.rxFraming = .reassemble →
    let becomes := fun (v : Ctx.View) (i : Ctx.Inputs) (regs : List WorkReg) =>
      ∃ t, runMove (.rxRead k) s = .next t ∧ State.CtxBecame k c v i regs s t
    let taken := { c.inputs with rxIn := ms }
    (c.rxIn = .eof :: ms →
      becomes
        { c.view with
          evtOut := c.evtOut ++ [⟨8#4, 0#8, BitVec.ofNat 32 c.rxbuf.length, 0#16⟩], rxbuf := [], rxState := .closed }
        taken []) ∧
    (c.rxIn = .readErr :: ms →
      becomes { c.view with evtOut := c.evtOut ++ [⟨9#4, 0#8, 0#32, 0#16⟩], rxbuf := [], rxState := .closed } taken []) ∧
    ∀ b, c.rxIn = .read b :: ms → b.length ≤ s.params.rxBufBytes →
      ∀ (ps : List Packet) (rest : Bytes) (c' : Ctx), (∀ q ∈ ps, q.WellFormed) → c.rxbuf ++ b = framesOf ps ++ rest →
        noWholeFrame rest →
        ps.foldlM (fun x p => x.handlePacket s.params s.cipherKey p) { c with rxIn := ms, rxbuf := rest } = .ok c' →
        becomes c'.view c'.inputs [.rxRead, .pk, .crc, .frame, .cipher] ∧
        ∃ evs, c'.evtOut = c.evtOut ++ evs ∧ ∀ e ∈ evs, e.code ≠ 2#4

/-- R53, R179, R239: where the connection cuts its bytes makes no difference to a receiver that reassembles: what one read of
`b1 ++ b2` does, a read of `b1` and then one of `b2` do. -/
def Obligations.SplitReadsMakeNoDifference : Prop :=
  ∀ (k : Nat) (s whole t : State) (c c' : Ctx) (b1 b2 : Bytes) (ms : List RxMsg),
    s.params.rxFraming = .reassemble → s.ctx? k = some c → c.rxState = .serving →
    c.rxIn = .read b1 :: .read b2 :: ms → (b1 ++ b2).length ≤ s.params.rxBufBytes →
    whole = s.setCtx k { c with rxIn := .read (b1 ++ b2) :: ms } →
    runMove (.rxRead k) whole = .next t → t.ctx? k = some c' → c'.rxIn = ms →
    ∃ t1 t2, runMove (.rxRead k) s = .next t1 ∧ runMove (.rxRead k) t1 = .next t2 ∧
      ∃ regs, State.CtxBecame k c c'.view c'.inputs regs s t2

/-! ### Both ends -/

/-- R194, R235, R238, R198, R153: one chunk, end to end, `KEY` being loaded at both ends (R305). The frame a sender writes,
read whole by a receiver with the same key, gives the host the chunk under its number and writes one acknowledgment; and that
acknowledgment, read by the sender, ends its wait. -/
def Obligations.ChunkIsDeliveredAndAcknowledged : Prop :=
  ∀ (i : Nat) (s : State) (cs : Ctx) (b : Bytes) (v : Block) (ms : List ChunkMsg) (rs : List RngMsg) (as : List TxAnswer),
    s.ctx? i = some cs → cs.txState = .fetch → cs.rxbuf = [] → cs.chunkIn = .chunk b :: ms → b ≠ [] → b.length ≤ 1024 →
    cs.rngIn = .ok v :: rs → cs.txAns = .ok :: as → 1051 ≤ s.params.rxBufBytes → s.keyLoaded = true →
    ∃ s1 cs1 f, runMove (.sendChunk i) s = .next s1 ∧ s1.ctx? i = some cs1 ∧ cs1.txOut = cs.txOut ++ [⟨f, .ok⟩] ∧
      ∀ (j : Nat) (r : State) (cr : Ctx) (ms : List RxMsg) (as : List TxAnswer),
        r.ctx? j = some cr → r.key = s.key → r.keyLoaded = true → r.params.blockEnc = s.params.blockEnc →
        r.params.autoDecrypt = true → 1051 ≤ r.params.rxBufBytes →
        cr.rxState = .serving → cr.rxbuf = [] → cr.rxIn = .read f :: ms → cr.txAns = .ok :: as →
        ∃ r1 cr1 a, runMove (.rxRead j) r = .next r1 ∧ r1.ctx? j = some cr1 ∧
          cr1.plainOut = cr.plainOut ++ [⟨cs.seqCtr, b⟩] ∧ cr1.txOut = cr.txOut ++ [⟨a, .ok⟩] ∧ cr1.rxState = .serving ∧
          ∀ (s2 : State) (cs2 : Ctx) (ms : List RxMsg), s2.ctx? i = some cs2 → s2.params = s.params →
            cs2.view = cs1.view → cs2.rxIn = .read a :: ms →
            ∃ s3 cs3, runMove (.ackRead i) s2 = .next s3 ∧ s3.ctx? i = some cs3 ∧ cs3.txState = .acked ∧
              cs3.seqCtr = cs.seqCtr

/-! ### The timer -/

/-- R287: a tick counts an armed timer down by one and stops at 0. The model's choice (log entry 20): one tick counts the
timers of all contexts, and changes nothing else. -/
def Obligations.TickCountsArmedTimers : Prop :=
  ∀ s : State, ∃ t, runMove .tick s = .next t ∧ t = { s with ctxs := t.ctxs } ∧ t.ctxs.length = s.ctxs.length ∧
    ∀ k c, s.ctx? k = some c →
      (c.timerArmed = true → 0 < c.ackTimer → t.ctx? k = some { c with ackTimer := c.ackTimer - 1 }) ∧
      (c.timerArmed = false ∨ c.ackTimer = 0 → t.ctx? k = some c)

/-- R286: while a wait goes on the timer keeps running and is never reloaded: a step leaves it or counts it down by one. -/
def Obligations.TimerIsNotReloaded : Prop :=
  ∀ (s t : State) (k : Nat) (c c' : Ctx), step s = .next t → s.ctx? k = some c → t.ctx? k = some c' →
    c.txState = .awaitingAck → c'.txState = .awaitingAck →
    c'.timerArmed = c.timerArmed ∧ (c'.ackTimer = c.ackTimer ∨ c'.ackTimer + 1 = c.ackTimer)

/-! ### The step -/

/-- R52, R90: when the message at the head of CMD of a context decodes to an instruction and the next move is the host's at
that context, the step is `exec` of that instruction, on the rest of the schedule, the context in `cur`. -/
def Obligations.StepRunsCommand : Prop :=
  ∀ (s : State) (k : Nat) (c : Ctx) (m : CmdMsg) (ms : List CmdMsg) (i : Instr) (rest : List Move),
    s.sched = .host k :: rest → s.ctx? k = some c → c.cmdIn = m :: ms → decode (.cmd m) = .ok (i, []) →
    step s = exec i { s with sched := rest, cur := k }

/-- R232, R239: when the bytes a receiver reads are, with those it holds, one whole frame and an incomplete rest, the step is
`exec` of the frame's instruction, at the state in which the read has been taken and the rest is kept (it is dropped when
one read is one frame, R178), in the context as `cur`. Only a verified Data frame needs an answer of the connection, for its
acknowledgment (R235). -/
def Obligations.StepRunsFrameAtReceiver : Prop :=
  ∀ (s : State) (k : Nat) (c : Ctx) (b frame rest : Bytes) (ms : List RxMsg) (i : Instr) (moves : List Move),
    s.sched = .rxRead k :: moves → s.ctx? k = some c → c.rxState = .serving →
    (∀ seq len payload, i = .data seq (crc32 payload) len payload → c.txAns ≠ []) →
    c.rxIn = .read b :: ms → b.length ≤ s.params.rxBufBytes → decode (.frame (frame ++ rest)) = .ok (i, rest) →
    (s.params.rxFraming = .perRead → b = frame ++ rest →
      ∃ w, c.work.KeepsBut [.rxRead, .pk] w ∧
        step s = exec i { s.setCtx k { c with rxIn := ms, work := w } with sched := moves, cur := k }) ∧
    (s.params.rxFraming = .reassemble → c.rxbuf ++ b = frame ++ rest → noWholeFrame rest →
      ∃ w, c.work.KeepsBut [.rxRead, .pk] w ∧
        step s = exec i { s.setCtx k { c with rxIn := ms, rxbuf := rest, work := w } with sched := moves, cur := k })

/-- R197, R200: the same at a sender that waits for an acknowledgment. -/
def Obligations.StepRunsFrameAtSender : Prop :=
  ∀ (s : State) (k : Nat) (c : Ctx) (b frame rest : Bytes) (ms : List RxMsg) (i : Instr) (moves : List Move),
    s.sched = .ackRead k :: moves → s.ctx? k = some c → c.txState = .awaitingAck → c.rxState ≠ .serving →
    c.rxIn = .read b :: ms → b.length ≤ s.params.rxBufBytes → decode (.frame (frame ++ rest)) = .ok (i, rest) →
    (s.params.rxFraming = .perRead → b = frame ++ rest →
      ∃ w, c.work.KeepsBut [.rxRead, .pk] w ∧
        step s = exec i { s.setCtx k { c with rxIn := ms, work := w } with sched := moves, cur := k }) ∧
    (s.params.rxFraming = .reassemble → c.rxbuf ++ b = frame ++ rest → noWholeFrame rest →
      ∃ w, c.work.KeepsBut [.rxRead, .pk] w ∧
        step s = exec i { s.setCtx k { c with rxIn := ms, rxbuf := rest, work := w } with sched := moves, cur := k })

/-! ### Rules of the whole machine -/

/-- R210: every change of `tx_state` by a step is a row of the table, with its step and its condition; a reset alone does
otherwise (R301). -/
def Obligations.TxTransitions : Prop :=
  ∀ (s t : State) (k : Nat) (c c' : Ctx), step s = .next t → s.ctx? k = some c → t.ctx? k = some c' →
    c'.txState ≠ c.txState →
    ∃ m rest, s.sched = m :: rest ∧ (m.resets k = true ∨ TxEdge s m k c c.txState c'.txState)

/-- R244: every change of `rx_state` by a step is one of the rule's transitions, with its step and its condition; a reset
alone does otherwise (R301). And `RxRead` on any read within the port's bound, whatever its content, takes the read and stays
in `Serving`, once the connection answers the acknowledgments it writes and, where a packet is decrypted, `KEY` has been loaded
(R305). -/
def Obligations.RxTransitions : Prop :=
  (∀ (s t : State) (k : Nat) (c c' : Ctx), step s = .next t → s.ctx? k = some c → t.ctx? k = some c' →
    c'.rxState ≠ c.rxState →
    ∃ m rest, s.sched = m :: rest ∧ (m.resets k = true ∨ RxEdge s m k c c.rxState c'.rxState)) ∧
  ∀ (s : State) (k : Nat) (c : Ctx) (b : Bytes) (ms : List RxMsg) (ps : List Packet), s.ctx? k = some c →
    c.rxState = .serving → c.rxIn = .read b :: ms → b.length ≤ s.params.rxBufBytes → c.shows s.params b ps →
    acksFor ps ≤ c.txAns.length → (s.params.autoDecrypt = true → 0 < acksFor ps → s.keyLoaded = true) →
    ∃ t c', runMove (.rxRead k) s = .next t ∧ t.ctx? k = some c' ∧ c'.rxState = .serving ∧ c'.rxIn = ms ∧
      c'.txAns = c.txAns.drop (acksFor ps)

/-- R321, R205, R206, R240, R270: in a context whose run has ended nothing changes until it is reset, and nothing is taken
from its ports; the environment may add to them. The host's commands go on at its ports (R322: always allowed): they alone
answer on RSP and take from CMD and RNG_IN, and add nothing to these. -/
def Obligations.EndedContextsStayEnded : Prop :=
  ∀ (s t : State) (k : Nat) (c c' : Ctx), s.Legal → step s = .next t → s.ctx? k = some c → t.ctx? k = some c' →
    c.ended = true → (∀ m rest, s.sched = m :: rest → m.resets k = false) →
    c'.view = { c.view with rsp := c'.rsp } ∧ c.rsp <+: c'.rsp ∧ c.chunkIn <+: c'.chunkIn ∧ c.txAns <+: c'.txAns ∧
      c.rxIn <+: c'.rxIn ∧
      ((∀ rest, s.sched ≠ .host k :: rest) → c'.rsp = c.rsp ∧ c.cmdIn <+: c'.cmdIn ∧ c.rngIn <+: c'.rngIn) ∧
      ((∃ rest, s.sched = .host k :: rest) → c'.cmdIn <:+ c.cmdIn ∧ c'.rngIn <:+ c.rngIn)

/-- R23, R42, R72, R322: the parameters never change, and `KEY` is write-once: it changes by a key load alone, the first since
the global reset, before the first operation and with every context idle; such a load sets it and changes nothing else;
and a loaded key stays until a global reset. The model's choices (log entry 6): a global reset keeps `KEY` (R304 and U9 leave
that open) and lets it be loaded again, and at any other time a key load is refused (U7). -/
def Obligations.ConfigurationIsConstant : Prop :=
  (∀ s t : State, step s = .next t →
    t.params = s.params ∧ t.ctxs.length = s.ctxs.length ∧
    (t.key ≠ s.key →
      (∃ rest, s.sched = .loadKey t.key :: rest) ∧ s.started = false ∧ s.keyLoaded = false ∧
        ∀ c ∈ s.ctxs, c.role = .none ∧ c.txState = .idle ∧ c.rxState = .idle) ∧
    (s.keyLoaded = true → s.sched.head? ≠ some .resetAll → t.keyLoaded = true ∧ t.key = s.key)) ∧
  ∀ (key : Block) (s : State),
    let allowed := s.started = false ∧ s.keyLoaded = false ∧
      ∀ c ∈ s.ctxs, c.role = .none ∧ c.txState = .idle ∧ c.rxState = .idle
    (allowed → runMove (.loadKey key) s = .next { s with key := key, keyLoaded := true }) ∧
    (¬allowed → runMove (.loadKey key) s = .refused .keyLocked)

/-- R24, R73: a context's step reads its own context and the configuration alone, and changes its own context alone; and so
does a command at its ports, when it is neither SEND nor SERVE (which name a context, R90), but for the model's own
`started`. -/
def Obligations.ContextsAreIndependent : Prop :=
  (∀ (m : Move) (k : Nat) (s1 s2 t1 : State), m.turnOf = some k → s1.key = s2.key → s1.params = s2.params →
    s1.keyLoaded = s2.keyLoaded → s1.ctx? k = s2.ctx? k → runMove m s1 = .next t1 →
    s1.OnlyCtx k t1 ∧ ∃ t2, runMove m s2 = .next t2 ∧ t2.ctx? k = t1.ctx? k ∧ s2.OnlyCtx k t2) ∧
  ∀ (k : Nat) (s1 s2 t1 : State), (∀ j, ¬s1.commands (.host k) (.send j) ∧ ¬s1.commands (.host k) (.serve j)) →
    s1.key = s2.key → s1.params = s2.params → s1.keyLoaded = s2.keyLoaded → s1.ctx? k = s2.ctx? k →
    runMove (.host k) s1 = .next t1 →
    { s1 with started := t1.started }.OnlyCtx k t1 ∧
      ∃ t2, runMove (.host k) s2 = .next t2 ∧ t2.ctx? k = t1.ctx? k ∧ { s2 with started := t2.started }.OnlyCtx k t2

/-- R73: steps of different contexts commute (the model's own `cur` names the context that moved last). -/
def Obligations.StepsOfContextsCommute : Prop :=
  ∀ (m1 m2 : Move) (j k : Nat) (s s1 s2 : State), m1.turnOf = some j → m2.turnOf = some k → j ≠ k →
    runMove m1 s = .next s1 → runMove m2 s1 = .next s2 →
    ∃ s1' s2', runMove m2 s = .next s1' ∧ runMove m1 s1' = .next s2' ∧ { s2' with cur := s2.cur } = s2

/-- R279, R313: what a receiver shows, the plaintext reduced to its numbers and lengths, does not depend on `KEY`. -/
def Obligations.ReceiverHidesKey : Prop :=
  ∀ (P : Params) (key1 key2 : Block) (c : Ctx),
    Turn.publicView (c.rxRead P (some key1)) = Turn.publicView (c.rxRead P (some key2))

/-- R39, R302: what the global reset leaves in every context. -/
def Obligations.ResetValues : Prop :=
  ∀ c ∈ State.reset.ctxs,
    c.role = .none ∧ c.txState = .idle ∧ c.seqCtr = 1#32 ∧ c.ackTimer = 0 ∧ c.timerArmed = false ∧
    c.mismatchSeen = false ∧ c.errClass = 0#3 ∧ c.errCause = 0#3 ∧ c.errSeq = 0#32 ∧ c.rxbuf = [] ∧ c.rxState = .idle

/-- R300, R301, R302: a context reset gives the context the values of R39 in any state, writes no frame, and changes no other
context, nor `KEY` (R304); with it the environment discards what the connection still holds, or leaves it. A global reset
does so for every context. The model's choices: `TX_OUT`'s record starts anew with the next connection, the other records
and the other pending inputs stay (log entry 16), and a global reset keeps `KEY` (log entry 6). -/
def Obligations.ResetRestores : Prop :=
  ∀ (k : Nat) (discard : Bool) (s : State) (c : Ctx), s.ctx? k = some c →
    let fresh : Ctx.View :=
      { role := .none, txState := .idle, seqCtr := 1#32, ackTimer := 0, timerArmed := false, mismatchSeen := false
        errClass := 0#3, errCause := 0#3, errSeq := 0#32, rxbuf := [], rxState := .idle, txOut := [], rsp := c.rsp
        pktOut := c.pktOut, plainOut := c.plainOut, evtOut := c.evtOut }
    (∃ t, runMove (.resetCtx k discard) s = .next t ∧ t = { s with ctxs := t.ctxs } ∧ t.ctxs.length = s.ctxs.length ∧
      (∀ j, j ≠ k → t.ctx? j = s.ctx? j) ∧ ∃ c', t.ctx? k = some c' ∧ c'.view = fresh ∧
        c'.inputs = { c.inputs with rxIn := if discard then [] else c.rxIn }) ∧
    ∃ t, runMove .resetAll s = .next t ∧ t.key = s.key ∧ t.params = s.params ∧
      ∃ c', t.ctx? k = some c' ∧ c'.view = fresh ∧ c'.inputs = c.inputs

/-! ### Invariants -/

/-- R302: the state after reset is legal, and no context has written anything. -/
def Obligations.InvariantsHoldAtReset : Prop := State.reset.Legal ∧ State.reset.StopAndWait

/-- R24, R29, R209, R239, R285, R287: every step from a legal state leads to a legal state. -/
def Obligations.LegalIsKept : Prop := ∀ s t : State, s.Legal → step s = .next t → t.Legal

/-- R26, R69, R87, R207, R235: every step keeps stop and wait: on its present connection a sender's frames carry 1, 2, 3, ...,
one per number and in order, none again, and a receiver writes acknowledgments alone. The model's choice (log entry 16): the
record of the frames written starts anew at a reset of the context, so nothing is said across one. -/
def Obligations.StopAndWaitIsKept : Prop :=
  ∀ s t : State, s.Legal → s.StopAndWait → step s = .next t → t.StopAndWait
end

