-- ==== Sys2Proof/Laws/Decode.lean ====
section
/-! SUPPORT. The laws of the byte order (R14): packing and unpacking undo each other; and the length of a frame (R85). -/

namespace Sys2Proof

/-- Unpacking what `be16` packed (R14). -/
@[simp] theorem unbe16_be16 (v : Half) : unbe16 (v.extractLsb' 8 8) (v.extractLsb' 0 8) = v := by
  unfold unbe16
  apply BitVec.eq_of_getLsbD_eq
  intro i hi
  simp only [BitVec.getLsbD_append, BitVec.getLsbD_extractLsb']
  by_cases h : i < 8
  · simp [h]
  · simp [h, show i - 8 < 8 by omega, show 8 + (i - 8) = i by omega]

/-- Unpacking what `be32` packed (R14). -/
@[simp] theorem unbe32_be32 (v : Word) :
    unbe32 (v.extractLsb' 24 8) (v.extractLsb' 16 8) (v.extractLsb' 8 8) (v.extractLsb' 0 8) = v := by
  unfold unbe32
  apply BitVec.eq_of_getLsbD_eq
  intro i hi
  simp only [BitVec.getLsbD_append, BitVec.getLsbD_extractLsb']
  by_cases h1 : i < 8
  · simp [h1]
  by_cases h2 : i < 16
  · simp [h1, show i - 8 < 8 by omega, show 8 + (i - 8) = i by omega]
  by_cases h3 : i < 24
  · simp [h1, show ¬ i - 8 < 8 by omega, show i - 8 - 8 < 8 by omega, show 16 + (i - 8 - 8) = i by omega]
  · simp [h1, show ¬ i - 8 < 8 by omega, show ¬ i - 8 - 8 < 8 by omega, show i - 8 - 8 - 8 < 8 by omega,
      show 24 + (i - 8 - 8 - 8) = i by omega]

/-- Packing what `unbe16` unpacked (R14). -/
@[simp] theorem be16_unbe16 (a b : Byte) : be16 (unbe16 a b) = [a, b] := by
  simp only [be16, unbe16, List.cons.injEq, and_true]
  constructor <;>
    (apply BitVec.eq_of_getLsbD_eq
     intro i hi
     rw [BitVec.getLsbD_extractLsb']
     erw [BitVec.getLsbD_append]
     simp [hi])

/-- Packing what `unbe32` unpacked (R14). -/
@[simp] theorem be32_unbe32 (a b c d : Byte) : be32 (unbe32 a b c d) = [a, b, c, d] := by
  simp only [be32, unbe32, List.cons.injEq, and_true]
  refine ⟨?_, ?_, ?_, ?_⟩ <;>
    (apply BitVec.eq_of_getLsbD_eq
     intro i hi
     rw [BitVec.getLsbD_extractLsb']
     erw [BitVec.getLsbD_append, BitVec.getLsbD_append, BitVec.getLsbD_append])
  · simp [hi, show ¬ 24 + i < 8 by omega, show ¬ 24 + i - 8 < 8 by omega, show ¬ 24 + i - 8 - 8 < 8 by omega,
      show 24 + i - 8 - 8 - 8 = i by omega]
  · simp [hi, show ¬ 16 + i < 8 by omega, show ¬ 16 + i - 8 < 8 by omega, show 16 + i - 8 - 8 = i by omega]
  · simp [hi, show ¬ 8 + i < 8 by omega, show 8 + i - 8 = i by omega]
  · simp [hi]

@[simp] theorem be16_length (v : Half) : (be16 v).length = 2 := rfl

@[simp] theorem be32_length (v : Word) : (be32 v).length = 4 := rfl

/-- A frame is eleven bytes and its payload (R85). -/
@[simp] theorem frameBytes_length (kind : Byte) (seq cks : Word) (len : Half) (payload : Bytes) :
    (frameBytes kind seq cks len payload).length = 11 + payload.length := by
  simp [frameBytes]
  omega

end Sys2Proof

namespace Sys2Proof.Machine

open Sys2Proof

/-- A block has sixteen bytes (R132). -/
@[simp] theorem blockToBytes_length (x : Block) : (blockToBytes x).length = 16 := rfl

/-- The block of a block's bytes is the block (R132). -/
@[simp] theorem blockOfBytes_blockToBytes (x : Block) (rest : Bytes) : blockOfBytes (blockToBytes x ++ rest) = x := rfl

/-- A bytewise exclusive or is as long as its shorter operand (R146). -/
@[simp] theorem xorBytes_length (p k : Bytes) : (xorBytes p k).length = min p.length k.length := by
  simp [xorBytes]

end Sys2Proof.Machine
end

