-- ==== Sys2Proof/Laws/State.lean ====
section
/-! SUPPORT. One lemma per field per update of a context and of the state, and the update laws of the
context list, so that no proof unfolds a record update. -/

namespace Sys2Proof.Machine

open Sys2Proof

/-! ### `Ctx.touch` -/

@[simp] theorem Ctx.touch_role (c : Ctx) (regs : List WorkReg) : (c.touch regs).role = c.role := rfl
@[simp] theorem Ctx.touch_txState (c : Ctx) (regs : List WorkReg) : (c.touch regs).txState = c.txState := rfl
@[simp] theorem Ctx.touch_seqCtr (c : Ctx) (regs : List WorkReg) : (c.touch regs).seqCtr = c.seqCtr := rfl
@[simp] theorem Ctx.touch_ackTimer (c : Ctx) (regs : List WorkReg) : (c.touch regs).ackTimer = c.ackTimer := rfl
@[simp] theorem Ctx.touch_timerArmed (c : Ctx) (regs : List WorkReg) : (c.touch regs).timerArmed = c.timerArmed := rfl
@[simp] theorem Ctx.touch_mismatchSeen (c : Ctx) (regs : List WorkReg) : (c.touch regs).mismatchSeen = c.mismatchSeen := rfl
@[simp] theorem Ctx.touch_errClass (c : Ctx) (regs : List WorkReg) : (c.touch regs).errClass = c.errClass := rfl
@[simp] theorem Ctx.touch_errCause (c : Ctx) (regs : List WorkReg) : (c.touch regs).errCause = c.errCause := rfl
@[simp] theorem Ctx.touch_errSeq (c : Ctx) (regs : List WorkReg) : (c.touch regs).errSeq = c.errSeq := rfl
@[simp] theorem Ctx.touch_rxbuf (c : Ctx) (regs : List WorkReg) : (c.touch regs).rxbuf = c.rxbuf := rfl
@[simp] theorem Ctx.touch_rxState (c : Ctx) (regs : List WorkReg) : (c.touch regs).rxState = c.rxState := rfl
@[simp] theorem Ctx.touch_work (c : Ctx) (regs : List WorkReg) : (c.touch regs).work = c.work.touch regs := rfl
@[simp] theorem Ctx.touch_cmdIn (c : Ctx) (regs : List WorkReg) : (c.touch regs).cmdIn = c.cmdIn := rfl
@[simp] theorem Ctx.touch_chunkIn (c : Ctx) (regs : List WorkReg) : (c.touch regs).chunkIn = c.chunkIn := rfl
@[simp] theorem Ctx.touch_rngIn (c : Ctx) (regs : List WorkReg) : (c.touch regs).rngIn = c.rngIn := rfl
@[simp] theorem Ctx.touch_txAns (c : Ctx) (regs : List WorkReg) : (c.touch regs).txAns = c.txAns := rfl
@[simp] theorem Ctx.touch_rxIn (c : Ctx) (regs : List WorkReg) : (c.touch regs).rxIn = c.rxIn := rfl
@[simp] theorem Ctx.touch_txOut (c : Ctx) (regs : List WorkReg) : (c.touch regs).txOut = c.txOut := rfl
@[simp] theorem Ctx.touch_rsp (c : Ctx) (regs : List WorkReg) : (c.touch regs).rsp = c.rsp := rfl
@[simp] theorem Ctx.touch_pktOut (c : Ctx) (regs : List WorkReg) : (c.touch regs).pktOut = c.pktOut := rfl
@[simp] theorem Ctx.touch_plainOut (c : Ctx) (regs : List WorkReg) : (c.touch regs).plainOut = c.plainOut := rfl
@[simp] theorem Ctx.touch_evtOut (c : Ctx) (regs : List WorkReg) : (c.touch regs).evtOut = c.evtOut := rfl

/-! ### `Ctx.respond` -/

@[simp] theorem Ctx.respond_role (c : Ctx) (r : Response) : (c.respond r).role = c.role := rfl
@[simp] theorem Ctx.respond_txState (c : Ctx) (r : Response) : (c.respond r).txState = c.txState := rfl
@[simp] theorem Ctx.respond_seqCtr (c : Ctx) (r : Response) : (c.respond r).seqCtr = c.seqCtr := rfl
@[simp] theorem Ctx.respond_ackTimer (c : Ctx) (r : Response) : (c.respond r).ackTimer = c.ackTimer := rfl
@[simp] theorem Ctx.respond_timerArmed (c : Ctx) (r : Response) : (c.respond r).timerArmed = c.timerArmed := rfl
@[simp] theorem Ctx.respond_mismatchSeen (c : Ctx) (r : Response) : (c.respond r).mismatchSeen = c.mismatchSeen := rfl
@[simp] theorem Ctx.respond_errClass (c : Ctx) (r : Response) : (c.respond r).errClass = c.errClass := rfl
@[simp] theorem Ctx.respond_errCause (c : Ctx) (r : Response) : (c.respond r).errCause = c.errCause := rfl
@[simp] theorem Ctx.respond_errSeq (c : Ctx) (r : Response) : (c.respond r).errSeq = c.errSeq := rfl
@[simp] theorem Ctx.respond_rxbuf (c : Ctx) (r : Response) : (c.respond r).rxbuf = c.rxbuf := rfl
@[simp] theorem Ctx.respond_rxState (c : Ctx) (r : Response) : (c.respond r).rxState = c.rxState := rfl
@[simp] theorem Ctx.respond_work (c : Ctx) (r : Response) : (c.respond r).work = c.work := rfl
@[simp] theorem Ctx.respond_cmdIn (c : Ctx) (r : Response) : (c.respond r).cmdIn = c.cmdIn.tail := rfl
@[simp] theorem Ctx.respond_chunkIn (c : Ctx) (r : Response) : (c.respond r).chunkIn = c.chunkIn := rfl
@[simp] theorem Ctx.respond_rngIn (c : Ctx) (r : Response) : (c.respond r).rngIn = c.rngIn := rfl
@[simp] theorem Ctx.respond_txAns (c : Ctx) (r : Response) : (c.respond r).txAns = c.txAns := rfl
@[simp] theorem Ctx.respond_rxIn (c : Ctx) (r : Response) : (c.respond r).rxIn = c.rxIn := rfl
@[simp] theorem Ctx.respond_txOut (c : Ctx) (r : Response) : (c.respond r).txOut = c.txOut := rfl
@[simp] theorem Ctx.respond_rsp (c : Ctx) (r : Response) : (c.respond r).rsp = c.rsp ++ [r] := rfl
@[simp] theorem Ctx.respond_pktOut (c : Ctx) (r : Response) : (c.respond r).pktOut = c.pktOut := rfl
@[simp] theorem Ctx.respond_plainOut (c : Ctx) (r : Response) : (c.respond r).plainOut = c.plainOut := rfl
@[simp] theorem Ctx.respond_evtOut (c : Ctx) (r : Response) : (c.respond r).evtOut = c.evtOut := rfl

/-! ### `Ctx.emit` -/

@[simp] theorem Ctx.emit_role (c : Ctx) (e : Event) : (c.emit e).role = c.role := rfl
@[simp] theorem Ctx.emit_txState (c : Ctx) (e : Event) : (c.emit e).txState = c.txState := rfl
@[simp] theorem Ctx.emit_seqCtr (c : Ctx) (e : Event) : (c.emit e).seqCtr = c.seqCtr := rfl
@[simp] theorem Ctx.emit_ackTimer (c : Ctx) (e : Event) : (c.emit e).ackTimer = c.ackTimer := rfl
@[simp] theorem Ctx.emit_timerArmed (c : Ctx) (e : Event) : (c.emit e).timerArmed = c.timerArmed := rfl
@[simp] theorem Ctx.emit_mismatchSeen (c : Ctx) (e : Event) : (c.emit e).mismatchSeen = c.mismatchSeen := rfl
@[simp] theorem Ctx.emit_errClass (c : Ctx) (e : Event) : (c.emit e).errClass = c.errClass := rfl
@[simp] theorem Ctx.emit_errCause (c : Ctx) (e : Event) : (c.emit e).errCause = c.errCause := rfl
@[simp] theorem Ctx.emit_errSeq (c : Ctx) (e : Event) : (c.emit e).errSeq = c.errSeq := rfl
@[simp] theorem Ctx.emit_rxbuf (c : Ctx) (e : Event) : (c.emit e).rxbuf = c.rxbuf := rfl
@[simp] theorem Ctx.emit_rxState (c : Ctx) (e : Event) : (c.emit e).rxState = c.rxState := rfl
@[simp] theorem Ctx.emit_work (c : Ctx) (e : Event) : (c.emit e).work = c.work := rfl
@[simp] theorem Ctx.emit_cmdIn (c : Ctx) (e : Event) : (c.emit e).cmdIn = c.cmdIn := rfl
@[simp] theorem Ctx.emit_chunkIn (c : Ctx) (e : Event) : (c.emit e).chunkIn = c.chunkIn := rfl
@[simp] theorem Ctx.emit_rngIn (c : Ctx) (e : Event) : (c.emit e).rngIn = c.rngIn := rfl
@[simp] theorem Ctx.emit_txAns (c : Ctx) (e : Event) : (c.emit e).txAns = c.txAns := rfl
@[simp] theorem Ctx.emit_rxIn (c : Ctx) (e : Event) : (c.emit e).rxIn = c.rxIn := rfl
@[simp] theorem Ctx.emit_txOut (c : Ctx) (e : Event) : (c.emit e).txOut = c.txOut := rfl
@[simp] theorem Ctx.emit_rsp (c : Ctx) (e : Event) : (c.emit e).rsp = c.rsp := rfl
@[simp] theorem Ctx.emit_pktOut (c : Ctx) (e : Event) : (c.emit e).pktOut = c.pktOut := rfl
@[simp] theorem Ctx.emit_plainOut (c : Ctx) (e : Event) : (c.emit e).plainOut = c.plainOut := rfl
@[simp] theorem Ctx.emit_evtOut (c : Ctx) (e : Event) : (c.emit e).evtOut = c.evtOut ++ [e] := rfl

/-! ### `Ctx.putPacket` -/

@[simp] theorem Ctx.putPacket_role (c : Ctx) (p : Packet) : (c.putPacket p).role = c.role := rfl
@[simp] theorem Ctx.putPacket_txState (c : Ctx) (p : Packet) : (c.putPacket p).txState = c.txState := rfl
@[simp] theorem Ctx.putPacket_seqCtr (c : Ctx) (p : Packet) : (c.putPacket p).seqCtr = c.seqCtr := rfl
@[simp] theorem Ctx.putPacket_ackTimer (c : Ctx) (p : Packet) : (c.putPacket p).ackTimer = c.ackTimer := rfl
@[simp] theorem Ctx.putPacket_timerArmed (c : Ctx) (p : Packet) : (c.putPacket p).timerArmed = c.timerArmed := rfl
@[simp] theorem Ctx.putPacket_mismatchSeen (c : Ctx) (p : Packet) : (c.putPacket p).mismatchSeen = c.mismatchSeen := rfl
@[simp] theorem Ctx.putPacket_errClass (c : Ctx) (p : Packet) : (c.putPacket p).errClass = c.errClass := rfl
@[simp] theorem Ctx.putPacket_errCause (c : Ctx) (p : Packet) : (c.putPacket p).errCause = c.errCause := rfl
@[simp] theorem Ctx.putPacket_errSeq (c : Ctx) (p : Packet) : (c.putPacket p).errSeq = c.errSeq := rfl
@[simp] theorem Ctx.putPacket_rxbuf (c : Ctx) (p : Packet) : (c.putPacket p).rxbuf = c.rxbuf := rfl
@[simp] theorem Ctx.putPacket_rxState (c : Ctx) (p : Packet) : (c.putPacket p).rxState = c.rxState := rfl
@[simp] theorem Ctx.putPacket_work (c : Ctx) (p : Packet) : (c.putPacket p).work = c.work := rfl
@[simp] theorem Ctx.putPacket_cmdIn (c : Ctx) (p : Packet) : (c.putPacket p).cmdIn = c.cmdIn := rfl
@[simp] theorem Ctx.putPacket_chunkIn (c : Ctx) (p : Packet) : (c.putPacket p).chunkIn = c.chunkIn := rfl
@[simp] theorem Ctx.putPacket_rngIn (c : Ctx) (p : Packet) : (c.putPacket p).rngIn = c.rngIn := rfl
@[simp] theorem Ctx.putPacket_txAns (c : Ctx) (p : Packet) : (c.putPacket p).txAns = c.txAns := rfl
@[simp] theorem Ctx.putPacket_rxIn (c : Ctx) (p : Packet) : (c.putPacket p).rxIn = c.rxIn := rfl
@[simp] theorem Ctx.putPacket_txOut (c : Ctx) (p : Packet) : (c.putPacket p).txOut = c.txOut := rfl
@[simp] theorem Ctx.putPacket_rsp (c : Ctx) (p : Packet) : (c.putPacket p).rsp = c.rsp := rfl
@[simp] theorem Ctx.putPacket_pktOut (c : Ctx) (p : Packet) : (c.putPacket p).pktOut = c.pktOut ++ [p] := rfl
@[simp] theorem Ctx.putPacket_plainOut (c : Ctx) (p : Packet) : (c.putPacket p).plainOut = c.plainOut := rfl
@[simp] theorem Ctx.putPacket_evtOut (c : Ctx) (p : Packet) : (c.putPacket p).evtOut = c.evtOut := rfl

/-! ### `Ctx.putPlain` -/

@[simp] theorem Ctx.putPlain_role (c : Ctx) (q : Word) (b : Bytes) : (c.putPlain q b).role = c.role := rfl
@[simp] theorem Ctx.putPlain_txState (c : Ctx) (q : Word) (b : Bytes) : (c.putPlain q b).txState = c.txState := rfl
@[simp] theorem Ctx.putPlain_seqCtr (c : Ctx) (q : Word) (b : Bytes) : (c.putPlain q b).seqCtr = c.seqCtr := rfl
@[simp] theorem Ctx.putPlain_ackTimer (c : Ctx) (q : Word) (b : Bytes) : (c.putPlain q b).ackTimer = c.ackTimer := rfl
@[simp] theorem Ctx.putPlain_timerArmed (c : Ctx) (q : Word) (b : Bytes) : (c.putPlain q b).timerArmed = c.timerArmed := rfl
@[simp] theorem Ctx.putPlain_mismatchSeen (c : Ctx) (q : Word) (b : Bytes) : (c.putPlain q b).mismatchSeen = c.mismatchSeen := rfl
@[simp] theorem Ctx.putPlain_errClass (c : Ctx) (q : Word) (b : Bytes) : (c.putPlain q b).errClass = c.errClass := rfl
@[simp] theorem Ctx.putPlain_errCause (c : Ctx) (q : Word) (b : Bytes) : (c.putPlain q b).errCause = c.errCause := rfl
@[simp] theorem Ctx.putPlain_errSeq (c : Ctx) (q : Word) (b : Bytes) : (c.putPlain q b).errSeq = c.errSeq := rfl
@[simp] theorem Ctx.putPlain_rxbuf (c : Ctx) (q : Word) (b : Bytes) : (c.putPlain q b).rxbuf = c.rxbuf := rfl
@[simp] theorem Ctx.putPlain_rxState (c : Ctx) (q : Word) (b : Bytes) : (c.putPlain q b).rxState = c.rxState := rfl
@[simp] theorem Ctx.putPlain_work (c : Ctx) (q : Word) (b : Bytes) : (c.putPlain q b).work = c.work := rfl
@[simp] theorem Ctx.putPlain_cmdIn (c : Ctx) (q : Word) (b : Bytes) : (c.putPlain q b).cmdIn = c.cmdIn := rfl
@[simp] theorem Ctx.putPlain_chunkIn (c : Ctx) (q : Word) (b : Bytes) : (c.putPlain q b).chunkIn = c.chunkIn := rfl
@[simp] theorem Ctx.putPlain_rngIn (c : Ctx) (q : Word) (b : Bytes) : (c.putPlain q b).rngIn = c.rngIn := rfl
@[simp] theorem Ctx.putPlain_txAns (c : Ctx) (q : Word) (b : Bytes) : (c.putPlain q b).txAns = c.txAns := rfl
@[simp] theorem Ctx.putPlain_rxIn (c : Ctx) (q : Word) (b : Bytes) : (c.putPlain q b).rxIn = c.rxIn := rfl
@[simp] theorem Ctx.putPlain_txOut (c : Ctx) (q : Word) (b : Bytes) : (c.putPlain q b).txOut = c.txOut := rfl
@[simp] theorem Ctx.putPlain_rsp (c : Ctx) (q : Word) (b : Bytes) : (c.putPlain q b).rsp = c.rsp := rfl
@[simp] theorem Ctx.putPlain_pktOut (c : Ctx) (q : Word) (b : Bytes) : (c.putPlain q b).pktOut = c.pktOut := rfl
@[simp] theorem Ctx.putPlain_plainOut (c : Ctx) (q : Word) (b : Bytes) : (c.putPlain q b).plainOut = c.plainOut ++ [⟨q, b⟩] := rfl
@[simp] theorem Ctx.putPlain_evtOut (c : Ctx) (q : Word) (b : Bytes) : (c.putPlain q b).evtOut = c.evtOut := rfl

/-! ### `Ctx.fail` -/

@[simp] theorem Ctx.fail_role (c : Ctx) (e : ErrCode) : (c.fail e).role = c.role := rfl
@[simp] theorem Ctx.fail_txState (c : Ctx) (e : ErrCode) : (c.fail e).txState = .failed := rfl
@[simp] theorem Ctx.fail_seqCtr (c : Ctx) (e : ErrCode) : (c.fail e).seqCtr = c.seqCtr := rfl
@[simp] theorem Ctx.fail_ackTimer (c : Ctx) (e : ErrCode) : (c.fail e).ackTimer = c.ackTimer := rfl
@[simp] theorem Ctx.fail_timerArmed (c : Ctx) (e : ErrCode) : (c.fail e).timerArmed = false := rfl
@[simp] theorem Ctx.fail_mismatchSeen (c : Ctx) (e : ErrCode) : (c.fail e).mismatchSeen = c.mismatchSeen := rfl
@[simp] theorem Ctx.fail_errClass (c : Ctx) (e : ErrCode) : (c.fail e).errClass = e.cls := rfl
@[simp] theorem Ctx.fail_errCause (c : Ctx) (e : ErrCode) : (c.fail e).errCause = e.cause := rfl
@[simp] theorem Ctx.fail_errSeq (c : Ctx) (e : ErrCode) : (c.fail e).errSeq = c.seqCtr := rfl
@[simp] theorem Ctx.fail_rxbuf (c : Ctx) (e : ErrCode) : (c.fail e).rxbuf = c.rxbuf := rfl
@[simp] theorem Ctx.fail_rxState (c : Ctx) (e : ErrCode) : (c.fail e).rxState = c.rxState := rfl
@[simp] theorem Ctx.fail_work (c : Ctx) (e : ErrCode) : (c.fail e).work = c.work := rfl
@[simp] theorem Ctx.fail_cmdIn (c : Ctx) (e : ErrCode) : (c.fail e).cmdIn = c.cmdIn := rfl
@[simp] theorem Ctx.fail_chunkIn (c : Ctx) (e : ErrCode) : (c.fail e).chunkIn = c.chunkIn := rfl
@[simp] theorem Ctx.fail_rngIn (c : Ctx) (e : ErrCode) : (c.fail e).rngIn = c.rngIn := rfl
@[simp] theorem Ctx.fail_txAns (c : Ctx) (e : ErrCode) : (c.fail e).txAns = c.txAns := rfl
@[simp] theorem Ctx.fail_rxIn (c : Ctx) (e : ErrCode) : (c.fail e).rxIn = c.rxIn := rfl
@[simp] theorem Ctx.fail_txOut (c : Ctx) (e : ErrCode) : (c.fail e).txOut = c.txOut := rfl
@[simp] theorem Ctx.fail_rsp (c : Ctx) (e : ErrCode) : (c.fail e).rsp = c.rsp := rfl
@[simp] theorem Ctx.fail_pktOut (c : Ctx) (e : ErrCode) : (c.fail e).pktOut = c.pktOut := rfl
@[simp] theorem Ctx.fail_plainOut (c : Ctx) (e : ErrCode) : (c.fail e).plainOut = c.plainOut := rfl
@[simp] theorem Ctx.fail_evtOut (c : Ctx) (e : ErrCode) : (c.fail e).evtOut = c.evtOut ++ [evTxFailed e c.seqCtr] := rfl

/-! ### `Ctx.reset` -/

@[simp] theorem Ctx.reset_role (c : Ctx) : (c.reset).role = .none := rfl
@[simp] theorem Ctx.reset_txState (c : Ctx) : (c.reset).txState = .idle := rfl
@[simp] theorem Ctx.reset_seqCtr (c : Ctx) : (c.reset).seqCtr = seqFirst := rfl
@[simp] theorem Ctx.reset_ackTimer (c : Ctx) : (c.reset).ackTimer = 0 := rfl
@[simp] theorem Ctx.reset_timerArmed (c : Ctx) : (c.reset).timerArmed = false := rfl
@[simp] theorem Ctx.reset_mismatchSeen (c : Ctx) : (c.reset).mismatchSeen = false := rfl
@[simp] theorem Ctx.reset_errClass (c : Ctx) : (c.reset).errClass = 0#3 := rfl
@[simp] theorem Ctx.reset_errCause (c : Ctx) : (c.reset).errCause = 0#3 := rfl
@[simp] theorem Ctx.reset_errSeq (c : Ctx) : (c.reset).errSeq = 0#32 := rfl
@[simp] theorem Ctx.reset_rxbuf (c : Ctx) : (c.reset).rxbuf = [] := rfl
@[simp] theorem Ctx.reset_rxState (c : Ctx) : (c.reset).rxState = .idle := rfl
@[simp] theorem Ctx.reset_work (c : Ctx) : (c.reset).work = c.work.touch [.crc, .cipher, .pk, .chunk, .frame, .rxRead] := rfl
@[simp] theorem Ctx.reset_cmdIn (c : Ctx) : (c.reset).cmdIn = c.cmdIn := rfl
@[simp] theorem Ctx.reset_chunkIn (c : Ctx) : (c.reset).chunkIn = c.chunkIn := rfl
@[simp] theorem Ctx.reset_rngIn (c : Ctx) : (c.reset).rngIn = c.rngIn := rfl
@[simp] theorem Ctx.reset_txAns (c : Ctx) : (c.reset).txAns = c.txAns := rfl
@[simp] theorem Ctx.reset_rxIn (c : Ctx) : (c.reset).rxIn = c.rxIn := rfl
@[simp] theorem Ctx.reset_txOut (c : Ctx) : (c.reset).txOut = [] := rfl
@[simp] theorem Ctx.reset_rsp (c : Ctx) : (c.reset).rsp = c.rsp := rfl
@[simp] theorem Ctx.reset_pktOut (c : Ctx) : (c.reset).pktOut = c.pktOut := rfl
@[simp] theorem Ctx.reset_plainOut (c : Ctx) : (c.reset).plainOut = c.plainOut := rfl
@[simp] theorem Ctx.reset_evtOut (c : Ctx) : (c.reset).evtOut = c.evtOut := rfl

/-! ### `Ctx.disconnect` -/

@[simp] theorem Ctx.disconnect_role (c : Ctx) (discard : Bool) : (c.disconnect discard).role = c.reset.role := rfl
@[simp] theorem Ctx.disconnect_txState (c : Ctx) (discard : Bool) : (c.disconnect discard).txState = c.reset.txState := rfl
@[simp] theorem Ctx.disconnect_seqCtr (c : Ctx) (discard : Bool) : (c.disconnect discard).seqCtr = c.reset.seqCtr := rfl
@[simp] theorem Ctx.disconnect_ackTimer (c : Ctx) (discard : Bool) : (c.disconnect discard).ackTimer = c.reset.ackTimer := rfl
@[simp] theorem Ctx.disconnect_timerArmed (c : Ctx) (discard : Bool) : (c.disconnect discard).timerArmed = c.reset.timerArmed := rfl
@[simp] theorem Ctx.disconnect_mismatchSeen (c : Ctx) (discard : Bool) : (c.disconnect discard).mismatchSeen = c.reset.mismatchSeen := rfl
@[simp] theorem Ctx.disconnect_errClass (c : Ctx) (discard : Bool) : (c.disconnect discard).errClass = c.reset.errClass := rfl
@[simp] theorem Ctx.disconnect_errCause (c : Ctx) (discard : Bool) : (c.disconnect discard).errCause = c.reset.errCause := rfl
@[simp] theorem Ctx.disconnect_errSeq (c : Ctx) (discard : Bool) : (c.disconnect discard).errSeq = c.reset.errSeq := rfl
@[simp] theorem Ctx.disconnect_rxbuf (c : Ctx) (discard : Bool) : (c.disconnect discard).rxbuf = c.reset.rxbuf := rfl
@[simp] theorem Ctx.disconnect_rxState (c : Ctx) (discard : Bool) : (c.disconnect discard).rxState = c.reset.rxState := rfl
@[simp] theorem Ctx.disconnect_work (c : Ctx) (discard : Bool) : (c.disconnect discard).work = c.reset.work := rfl
@[simp] theorem Ctx.disconnect_cmdIn (c : Ctx) (discard : Bool) : (c.disconnect discard).cmdIn = c.reset.cmdIn := rfl
@[simp] theorem Ctx.disconnect_chunkIn (c : Ctx) (discard : Bool) : (c.disconnect discard).chunkIn = c.reset.chunkIn := rfl
@[simp] theorem Ctx.disconnect_rngIn (c : Ctx) (discard : Bool) : (c.disconnect discard).rngIn = c.reset.rngIn := rfl
@[simp] theorem Ctx.disconnect_txAns (c : Ctx) (discard : Bool) : (c.disconnect discard).txAns = c.reset.txAns := rfl
@[simp] theorem Ctx.disconnect_txOut (c : Ctx) (discard : Bool) : (c.disconnect discard).txOut = c.reset.txOut := rfl
@[simp] theorem Ctx.disconnect_rsp (c : Ctx) (discard : Bool) : (c.disconnect discard).rsp = c.reset.rsp := rfl
@[simp] theorem Ctx.disconnect_pktOut (c : Ctx) (discard : Bool) : (c.disconnect discard).pktOut = c.reset.pktOut := rfl
@[simp] theorem Ctx.disconnect_plainOut (c : Ctx) (discard : Bool) : (c.disconnect discard).plainOut = c.reset.plainOut := rfl
@[simp] theorem Ctx.disconnect_evtOut (c : Ctx) (discard : Bool) : (c.disconnect discard).evtOut = c.reset.evtOut := rfl
@[simp] theorem Ctx.disconnect_rxIn (c : Ctx) (discard : Bool) :
    (c.disconnect discard).rxIn = if discard then [] else c.rxIn := rfl

/-- Without discarding, it is the reset alone. -/
theorem Ctx.disconnect_false (c : Ctx) : c.disconnect false = c.reset := rfl

@[simp] theorem Ctx.disconnect_view (c : Ctx) (discard : Bool) : (c.disconnect discard).view = c.reset.view := rfl

/-! ### `Ctx.awaitAck` -/

@[simp] theorem Ctx.awaitAck_role (c : Ctx) (P : Params) : (c.awaitAck P).role = c.role := rfl
@[simp] theorem Ctx.awaitAck_txState (c : Ctx) (P : Params) : (c.awaitAck P).txState = .awaitingAck := rfl
@[simp] theorem Ctx.awaitAck_seqCtr (c : Ctx) (P : Params) : (c.awaitAck P).seqCtr = c.seqCtr := rfl
@[simp] theorem Ctx.awaitAck_ackTimer (c : Ctx) (P : Params) : (c.awaitAck P).ackTimer = P.ackTimeoutTicks := rfl
@[simp] theorem Ctx.awaitAck_timerArmed (c : Ctx) (P : Params) : (c.awaitAck P).timerArmed = true := rfl
@[simp] theorem Ctx.awaitAck_mismatchSeen (c : Ctx) (P : Params) : (c.awaitAck P).mismatchSeen = false := rfl
@[simp] theorem Ctx.awaitAck_errClass (c : Ctx) (P : Params) : (c.awaitAck P).errClass = c.errClass := rfl
@[simp] theorem Ctx.awaitAck_errCause (c : Ctx) (P : Params) : (c.awaitAck P).errCause = c.errCause := rfl
@[simp] theorem Ctx.awaitAck_errSeq (c : Ctx) (P : Params) : (c.awaitAck P).errSeq = c.errSeq := rfl
@[simp] theorem Ctx.awaitAck_rxbuf (c : Ctx) (P : Params) : (c.awaitAck P).rxbuf = c.rxbuf := rfl
@[simp] theorem Ctx.awaitAck_rxState (c : Ctx) (P : Params) : (c.awaitAck P).rxState = c.rxState := rfl
@[simp] theorem Ctx.awaitAck_work (c : Ctx) (P : Params) : (c.awaitAck P).work = c.work := rfl
@[simp] theorem Ctx.awaitAck_cmdIn (c : Ctx) (P : Params) : (c.awaitAck P).cmdIn = c.cmdIn := rfl
@[simp] theorem Ctx.awaitAck_chunkIn (c : Ctx) (P : Params) : (c.awaitAck P).chunkIn = c.chunkIn := rfl
@[simp] theorem Ctx.awaitAck_rngIn (c : Ctx) (P : Params) : (c.awaitAck P).rngIn = c.rngIn := rfl
@[simp] theorem Ctx.awaitAck_txAns (c : Ctx) (P : Params) : (c.awaitAck P).txAns = c.txAns := rfl
@[simp] theorem Ctx.awaitAck_rxIn (c : Ctx) (P : Params) : (c.awaitAck P).rxIn = c.rxIn := rfl
@[simp] theorem Ctx.awaitAck_txOut (c : Ctx) (P : Params) : (c.awaitAck P).txOut = c.txOut := rfl
@[simp] theorem Ctx.awaitAck_rsp (c : Ctx) (P : Params) : (c.awaitAck P).rsp = c.rsp := rfl
@[simp] theorem Ctx.awaitAck_pktOut (c : Ctx) (P : Params) : (c.awaitAck P).pktOut = c.pktOut := rfl
@[simp] theorem Ctx.awaitAck_plainOut (c : Ctx) (P : Params) : (c.awaitAck P).plainOut = c.plainOut := rfl
@[simp] theorem Ctx.awaitAck_evtOut (c : Ctx) (P : Params) : (c.awaitAck P).evtOut = c.evtOut := rfl

/-! ### `Ctx.accept` -/

@[simp] theorem Ctx.accept_role (c : Ctx) : (c.accept).role = c.role := rfl
@[simp] theorem Ctx.accept_txState (c : Ctx) : (c.accept).txState = .acked := rfl
@[simp] theorem Ctx.accept_seqCtr (c : Ctx) : (c.accept).seqCtr = c.seqCtr := rfl
@[simp] theorem Ctx.accept_ackTimer (c : Ctx) : (c.accept).ackTimer = c.ackTimer := rfl
@[simp] theorem Ctx.accept_timerArmed (c : Ctx) : (c.accept).timerArmed = false := rfl
@[simp] theorem Ctx.accept_mismatchSeen (c : Ctx) : (c.accept).mismatchSeen = c.mismatchSeen := rfl
@[simp] theorem Ctx.accept_errClass (c : Ctx) : (c.accept).errClass = c.errClass := rfl
@[simp] theorem Ctx.accept_errCause (c : Ctx) : (c.accept).errCause = c.errCause := rfl
@[simp] theorem Ctx.accept_errSeq (c : Ctx) : (c.accept).errSeq = c.errSeq := rfl
@[simp] theorem Ctx.accept_rxbuf (c : Ctx) : (c.accept).rxbuf = c.rxbuf := rfl
@[simp] theorem Ctx.accept_rxState (c : Ctx) : (c.accept).rxState = c.rxState := rfl
@[simp] theorem Ctx.accept_work (c : Ctx) : (c.accept).work = c.work := rfl
@[simp] theorem Ctx.accept_cmdIn (c : Ctx) : (c.accept).cmdIn = c.cmdIn := rfl
@[simp] theorem Ctx.accept_chunkIn (c : Ctx) : (c.accept).chunkIn = c.chunkIn := rfl
@[simp] theorem Ctx.accept_rngIn (c : Ctx) : (c.accept).rngIn = c.rngIn := rfl
@[simp] theorem Ctx.accept_txAns (c : Ctx) : (c.accept).txAns = c.txAns := rfl
@[simp] theorem Ctx.accept_rxIn (c : Ctx) : (c.accept).rxIn = c.rxIn := rfl
@[simp] theorem Ctx.accept_txOut (c : Ctx) : (c.accept).txOut = c.txOut := rfl
@[simp] theorem Ctx.accept_rsp (c : Ctx) : (c.accept).rsp = c.rsp := rfl
@[simp] theorem Ctx.accept_pktOut (c : Ctx) : (c.accept).pktOut = c.pktOut := rfl
@[simp] theorem Ctx.accept_plainOut (c : Ctx) : (c.accept).plainOut = c.plainOut := rfl
@[simp] theorem Ctx.accept_evtOut (c : Ctx) : (c.accept).evtOut = c.evtOut := rfl

/-! ### `Ctx.discard` -/

@[simp] theorem Ctx.discard_role (c : Ctx) (p : Packet) : (c.discard p).role = c.role := rfl
@[simp] theorem Ctx.discard_txState (c : Ctx) (p : Packet) : (c.discard p).txState = c.txState := rfl
@[simp] theorem Ctx.discard_seqCtr (c : Ctx) (p : Packet) : (c.discard p).seqCtr = c.seqCtr := rfl
@[simp] theorem Ctx.discard_ackTimer (c : Ctx) (p : Packet) : (c.discard p).ackTimer = c.ackTimer := rfl
@[simp] theorem Ctx.discard_timerArmed (c : Ctx) (p : Packet) : (c.discard p).timerArmed = c.timerArmed := rfl
@[simp] theorem Ctx.discard_mismatchSeen (c : Ctx) (p : Packet) : (c.discard p).mismatchSeen = c.mismatchAfter p := rfl
@[simp] theorem Ctx.discard_errClass (c : Ctx) (p : Packet) : (c.discard p).errClass = c.errClass := rfl
@[simp] theorem Ctx.discard_errCause (c : Ctx) (p : Packet) : (c.discard p).errCause = c.errCause := rfl
@[simp] theorem Ctx.discard_errSeq (c : Ctx) (p : Packet) : (c.discard p).errSeq = c.errSeq := rfl
@[simp] theorem Ctx.discard_rxbuf (c : Ctx) (p : Packet) : (c.discard p).rxbuf = c.rxbuf := rfl
@[simp] theorem Ctx.discard_rxState (c : Ctx) (p : Packet) : (c.discard p).rxState = c.rxState := rfl
@[simp] theorem Ctx.discard_work (c : Ctx) (p : Packet) : (c.discard p).work = c.work := rfl
@[simp] theorem Ctx.discard_cmdIn (c : Ctx) (p : Packet) : (c.discard p).cmdIn = c.cmdIn := rfl
@[simp] theorem Ctx.discard_chunkIn (c : Ctx) (p : Packet) : (c.discard p).chunkIn = c.chunkIn := rfl
@[simp] theorem Ctx.discard_rngIn (c : Ctx) (p : Packet) : (c.discard p).rngIn = c.rngIn := rfl
@[simp] theorem Ctx.discard_txAns (c : Ctx) (p : Packet) : (c.discard p).txAns = c.txAns := rfl
@[simp] theorem Ctx.discard_rxIn (c : Ctx) (p : Packet) : (c.discard p).rxIn = c.rxIn := rfl
@[simp] theorem Ctx.discard_txOut (c : Ctx) (p : Packet) : (c.discard p).txOut = c.txOut := rfl
@[simp] theorem Ctx.discard_rsp (c : Ctx) (p : Packet) : (c.discard p).rsp = c.rsp := rfl
@[simp] theorem Ctx.discard_pktOut (c : Ctx) (p : Packet) : (c.discard p).pktOut = c.pktOut := rfl
@[simp] theorem Ctx.discard_plainOut (c : Ctx) (p : Packet) : (c.discard p).plainOut = c.plainOut := rfl
@[simp] theorem Ctx.discard_evtOut (c : Ctx) (p : Packet) : (c.discard p).evtOut = c.evtOut := rfl

/-! ### `Ctx.startSender` -/

@[simp] theorem Ctx.startSender_role (c : Ctx) : (c.startSender).role = .sender := rfl
@[simp] theorem Ctx.startSender_txState (c : Ctx) : (c.startSender).txState = .fetch := rfl
@[simp] theorem Ctx.startSender_seqCtr (c : Ctx) : (c.startSender).seqCtr = seqFirst := rfl
@[simp] theorem Ctx.startSender_ackTimer (c : Ctx) : (c.startSender).ackTimer = c.ackTimer := rfl
@[simp] theorem Ctx.startSender_timerArmed (c : Ctx) : (c.startSender).timerArmed = false := rfl
@[simp] theorem Ctx.startSender_mismatchSeen (c : Ctx) : (c.startSender).mismatchSeen = false := rfl
@[simp] theorem Ctx.startSender_errClass (c : Ctx) : (c.startSender).errClass = 0#3 := rfl
@[simp] theorem Ctx.startSender_errCause (c : Ctx) : (c.startSender).errCause = 0#3 := rfl
@[simp] theorem Ctx.startSender_errSeq (c : Ctx) : (c.startSender).errSeq = 0#32 := rfl
@[simp] theorem Ctx.startSender_rxbuf (c : Ctx) : (c.startSender).rxbuf = [] := rfl
@[simp] theorem Ctx.startSender_rxState (c : Ctx) : (c.startSender).rxState = c.rxState := rfl
@[simp] theorem Ctx.startSender_work (c : Ctx) : (c.startSender).work = c.work := rfl
@[simp] theorem Ctx.startSender_cmdIn (c : Ctx) : (c.startSender).cmdIn = c.cmdIn := rfl
@[simp] theorem Ctx.startSender_chunkIn (c : Ctx) : (c.startSender).chunkIn = c.chunkIn := rfl
@[simp] theorem Ctx.startSender_rngIn (c : Ctx) : (c.startSender).rngIn = c.rngIn := rfl
@[simp] theorem Ctx.startSender_txAns (c : Ctx) : (c.startSender).txAns = c.txAns := rfl
@[simp] theorem Ctx.startSender_rxIn (c : Ctx) : (c.startSender).rxIn = c.rxIn := rfl
@[simp] theorem Ctx.startSender_txOut (c : Ctx) : (c.startSender).txOut = c.txOut := rfl
@[simp] theorem Ctx.startSender_rsp (c : Ctx) : (c.startSender).rsp = c.rsp := rfl
@[simp] theorem Ctx.startSender_pktOut (c : Ctx) : (c.startSender).pktOut = c.pktOut := rfl
@[simp] theorem Ctx.startSender_plainOut (c : Ctx) : (c.startSender).plainOut = c.plainOut := rfl
@[simp] theorem Ctx.startSender_evtOut (c : Ctx) : (c.startSender).evtOut = c.evtOut := rfl

/-! ### `Ctx.startReceiver` -/

@[simp] theorem Ctx.startReceiver_role (c : Ctx) : (c.startReceiver).role = .receiver := rfl
@[simp] theorem Ctx.startReceiver_txState (c : Ctx) : (c.startReceiver).txState = c.txState := rfl
@[simp] theorem Ctx.startReceiver_seqCtr (c : Ctx) : (c.startReceiver).seqCtr = c.seqCtr := rfl
@[simp] theorem Ctx.startReceiver_ackTimer (c : Ctx) : (c.startReceiver).ackTimer = c.ackTimer := rfl
@[simp] theorem Ctx.startReceiver_timerArmed (c : Ctx) : (c.startReceiver).timerArmed = c.timerArmed := rfl
@[simp] theorem Ctx.startReceiver_mismatchSeen (c : Ctx) : (c.startReceiver).mismatchSeen = c.mismatchSeen := rfl
@[simp] theorem Ctx.startReceiver_errClass (c : Ctx) : (c.startReceiver).errClass = c.errClass := rfl
@[simp] theorem Ctx.startReceiver_errCause (c : Ctx) : (c.startReceiver).errCause = c.errCause := rfl
@[simp] theorem Ctx.startReceiver_errSeq (c : Ctx) : (c.startReceiver).errSeq = c.errSeq := rfl
@[simp] theorem Ctx.startReceiver_rxbuf (c : Ctx) : (c.startReceiver).rxbuf = [] := rfl
@[simp] theorem Ctx.startReceiver_rxState (c : Ctx) : (c.startReceiver).rxState = .serving := rfl
@[simp] theorem Ctx.startReceiver_work (c : Ctx) : (c.startReceiver).work = c.work := rfl
@[simp] theorem Ctx.startReceiver_cmdIn (c : Ctx) : (c.startReceiver).cmdIn = c.cmdIn := rfl
@[simp] theorem Ctx.startReceiver_chunkIn (c : Ctx) : (c.startReceiver).chunkIn = c.chunkIn := rfl
@[simp] theorem Ctx.startReceiver_rngIn (c : Ctx) : (c.startReceiver).rngIn = c.rngIn := rfl
@[simp] theorem Ctx.startReceiver_txAns (c : Ctx) : (c.startReceiver).txAns = c.txAns := rfl
@[simp] theorem Ctx.startReceiver_rxIn (c : Ctx) : (c.startReceiver).rxIn = c.rxIn := rfl
@[simp] theorem Ctx.startReceiver_txOut (c : Ctx) : (c.startReceiver).txOut = c.txOut := rfl
@[simp] theorem Ctx.startReceiver_rsp (c : Ctx) : (c.startReceiver).rsp = c.rsp := rfl
@[simp] theorem Ctx.startReceiver_pktOut (c : Ctx) : (c.startReceiver).pktOut = c.pktOut := rfl
@[simp] theorem Ctx.startReceiver_plainOut (c : Ctx) : (c.startReceiver).plainOut = c.plainOut := rfl
@[simp] theorem Ctx.startReceiver_evtOut (c : Ctx) : (c.startReceiver).evtOut = c.evtOut := rfl

/-! ### `Ctx.tick` -/

@[simp] theorem Ctx.tick_role (c : Ctx) : c.tick.role = c.role := by
  unfold Ctx.tick; split <;> rfl
@[simp] theorem Ctx.tick_txState (c : Ctx) : c.tick.txState = c.txState := by
  unfold Ctx.tick; split <;> rfl
@[simp] theorem Ctx.tick_seqCtr (c : Ctx) : c.tick.seqCtr = c.seqCtr := by
  unfold Ctx.tick; split <;> rfl
@[simp] theorem Ctx.tick_timerArmed (c : Ctx) : c.tick.timerArmed = c.timerArmed := by
  unfold Ctx.tick; split <;> rfl
@[simp] theorem Ctx.tick_mismatchSeen (c : Ctx) : c.tick.mismatchSeen = c.mismatchSeen := by
  unfold Ctx.tick; split <;> rfl
@[simp] theorem Ctx.tick_errClass (c : Ctx) : c.tick.errClass = c.errClass := by
  unfold Ctx.tick; split <;> rfl
@[simp] theorem Ctx.tick_errCause (c : Ctx) : c.tick.errCause = c.errCause := by
  unfold Ctx.tick; split <;> rfl
@[simp] theorem Ctx.tick_errSeq (c : Ctx) : c.tick.errSeq = c.errSeq := by
  unfold Ctx.tick; split <;> rfl
@[simp] theorem Ctx.tick_rxbuf (c : Ctx) : c.tick.rxbuf = c.rxbuf := by
  unfold Ctx.tick; split <;> rfl
@[simp] theorem Ctx.tick_rxState (c : Ctx) : c.tick.rxState = c.rxState := by
  unfold Ctx.tick; split <;> rfl
@[simp] theorem Ctx.tick_work (c : Ctx) : c.tick.work = c.work := by
  unfold Ctx.tick; split <;> rfl
@[simp] theorem Ctx.tick_cmdIn (c : Ctx) : c.tick.cmdIn = c.cmdIn := by
  unfold Ctx.tick; split <;> rfl
@[simp] theorem Ctx.tick_chunkIn (c : Ctx) : c.tick.chunkIn = c.chunkIn := by
  unfold Ctx.tick; split <;> rfl
@[simp] theorem Ctx.tick_rngIn (c : Ctx) : c.tick.rngIn = c.rngIn := by
  unfold Ctx.tick; split <;> rfl
@[simp] theorem Ctx.tick_txAns (c : Ctx) : c.tick.txAns = c.txAns := by
  unfold Ctx.tick; split <;> rfl
@[simp] theorem Ctx.tick_rxIn (c : Ctx) : c.tick.rxIn = c.rxIn := by
  unfold Ctx.tick; split <;> rfl
@[simp] theorem Ctx.tick_txOut (c : Ctx) : c.tick.txOut = c.txOut := by
  unfold Ctx.tick; split <;> rfl
@[simp] theorem Ctx.tick_rsp (c : Ctx) : c.tick.rsp = c.rsp := by
  unfold Ctx.tick; split <;> rfl
@[simp] theorem Ctx.tick_pktOut (c : Ctx) : c.tick.pktOut = c.pktOut := by
  unfold Ctx.tick; split <;> rfl
@[simp] theorem Ctx.tick_plainOut (c : Ctx) : c.tick.plainOut = c.plainOut := by
  unfold Ctx.tick; split <;> rfl
@[simp] theorem Ctx.tick_evtOut (c : Ctx) : c.tick.evtOut = c.evtOut := by
  unfold Ctx.tick; split <;> rfl

theorem Ctx.tick_ackTimer_le (c : Ctx) : c.tick.ackTimer ≤ c.ackTimer := by
  unfold Ctx.tick; split <;> simp

/-! ### The state -/

@[simp] theorem State.setCtx_key (s : State) (k : Nat) (c : Ctx) : (s.setCtx k c).key = s.key := rfl
@[simp] theorem State.setCtx_params (s : State) (k : Nat) (c : Ctx) : (s.setCtx k c).params = s.params := rfl
@[simp] theorem State.setCtx_ctxs (s : State) (k : Nat) (c : Ctx) : (s.setCtx k c).ctxs = s.ctxs.set k c := rfl
@[simp] theorem State.setCtx_cur (s : State) (k : Nat) (c : Ctx) : (s.setCtx k c).cur = s.cur := rfl
@[simp] theorem State.setCtx_started (s : State) (k : Nat) (c : Ctx) : (s.setCtx k c).started = s.started := rfl
@[simp] theorem State.setCtx_keyLoaded (s : State) (k : Nat) (c : Ctx) : (s.setCtx k c).keyLoaded = s.keyLoaded := rfl
@[simp] theorem State.setCtx_sched (s : State) (k : Nat) (c : Ctx) : (s.setCtx k c).sched = s.sched := rfl

@[simp] theorem State.resetAll_key (s : State) : (s.resetAll).key = s.key := rfl
@[simp] theorem State.resetAll_params (s : State) : (s.resetAll).params = s.params := rfl
@[simp] theorem State.resetAll_ctxs (s : State) : (s.resetAll).ctxs = s.ctxs.map Ctx.reset := rfl
@[simp] theorem State.resetAll_cur (s : State) : (s.resetAll).cur = s.cur := rfl
@[simp] theorem State.resetAll_started (s : State) : (s.resetAll).started = false := rfl
@[simp] theorem State.resetAll_keyLoaded (s : State) : (s.resetAll).keyLoaded = false := rfl
@[simp] theorem State.resetAll_sched (s : State) : (s.resetAll).sched = s.sched := rfl

/-! ### The key of a cipher operation -/

theorem State.cipherKey_loaded {s : State} (h : s.keyLoaded = true) : s.cipherKey = some s.key := by
  simp [State.cipherKey, h]

theorem State.cipherKey_notLoaded {s : State} (h : s.keyLoaded = false) : s.cipherKey = none := by
  simp [State.cipherKey, h]

@[simp] theorem State.cipherKey_setCtx (s : State) (k : Nat) (c : Ctx) : (s.setCtx k c).cipherKey = s.cipherKey := rfl

/-! ### The context list -/

theorem State.ctx?_eq (s : State) (k : Nat) : s.ctx? k = s.ctxs[k]? := rfl

theorem State.ctx?_lt {s : State} {k : Nat} {c : Ctx} (h : s.ctx? k = some c) : k < s.ctxs.length :=
  (List.getElem?_eq_some_iff.mp h).1

theorem State.ctx?_mem {s : State} {k : Nat} {c : Ctx} (h : s.ctx? k = some c) : c ∈ s.ctxs :=
  List.mem_of_getElem? h

@[simp] theorem State.ctx?_setCtx_self {s : State} {k : Nat} {c c' : Ctx} (h : s.ctx? k = some c) :
    (s.setCtx k c').ctx? k = some c' := by
  have := State.ctx?_lt h
  simp [State.ctx?, State.setCtx, this]

theorem State.ctx?_setCtx_ne {s : State} {j k : Nat} (c' : Ctx) (h : j ≠ k) :
    (s.setCtx k c').ctx? j = s.ctx? j := by
  simp [State.ctx?, State.setCtx, Ne.symm h]

/-! ### `State.loadKey` -/

/-- Everything a key load can do: refused, or `KEY` set and marked as loaded (R42, R72, R322). -/
theorem State.loadKey_next {key : Block} {s t : State} (h : s.loadKey key = .next t) :
    s.started = false ∧ s.keyLoaded = false ∧ s.ctxs.all Ctx.isIdle = true ∧
      t = { s with key := key, keyLoaded := true } := by
  unfold State.loadKey at h
  split at h
  · cases h
  · rename_i hh
    cases h
    simp only [Bool.or_eq_true, not_or, Bool.not_eq_true, Bool.not_eq_false'] at hh
    exact ⟨hh.1.1, hh.1.2, hh.2, rfl⟩

end Sys2Proof.Machine
end

