-- ==== Sys2Proof/Laws/Ops.lean ====
section
/-! SUPPORT. For each shared operation, everything it can do, said once: the port primitives, the deframer, a turn of a
context, and the sequencer steps. -/

namespace Sys2Proof.Machine

open Sys2Proof

/-! ### Port primitives -/

theorem Ctx.chunkRead_eq_some {c c' : Ctx} {m : ChunkMsg} :
    c.chunkRead = some (m, c') ↔ ∃ ms, c.chunkIn = m :: ms ∧ c' = { c with chunkIn := ms } := by
  unfold Ctx.chunkRead
  cases c.chunkIn with
  | nil => simp
  | cons x xs => constructor
                 · intro h; cases h; exact ⟨xs, rfl, rfl⟩
                 · rintro ⟨ms, h, rfl⟩; cases h; rfl

theorem Ctx.rngDraw_eq_some {c c' : Ctx} {m : RngMsg} :
    c.rngDraw = some (m, c') ↔ ∃ ms, c.rngIn = m :: ms ∧ c' = { c with rngIn := ms } := by
  unfold Ctx.rngDraw
  cases c.rngIn with
  | nil => simp
  | cons x xs => constructor
                 · intro h; cases h; exact ⟨xs, rfl, rfl⟩
                 · rintro ⟨ms, h, rfl⟩; cases h; rfl

theorem Ctx.rxNext_eq_some {c c' : Ctx} {m : RxMsg} :
    c.rxNext = some (m, c') ↔ ∃ ms, c.rxIn = m :: ms ∧ c' = { c with rxIn := ms } := by
  unfold Ctx.rxNext
  cases c.rxIn with
  | nil => simp
  | cons x xs => constructor
                 · intro h; cases h; exact ⟨xs, rfl, rfl⟩
                 · rintro ⟨ms, h, rfl⟩; cases h; rfl

theorem Ctx.txWrite_eq_some {c c' : Ctx} {f : Bytes} {a : TxAnswer} :
    c.txWrite f = some (a, c') ↔
      ∃ as, c.txAns = a :: as ∧ c' = { c with txAns := as, txOut := c.txOut ++ [⟨f, a⟩] } := by
  unfold Ctx.txWrite
  cases c.txAns with
  | nil => simp
  | cons x xs => constructor
                 · intro h; cases h; exact ⟨xs, rfl, rfl⟩
                 · rintro ⟨ms, h, rfl⟩; cases h; rfl

/-! ### Working registers -/

/-- A touch keeps the working registers outside its groups. -/
theorem Work.touch_keepsBut (regs : List WorkReg) (w : Work) : w.KeepsBut regs (w.touch regs) := by
  refine ⟨?_, ?_, ?_, ?_, ?_, ?_⟩ <;> intro h <;> simp [Work.touch, h]

theorem Work.KeepsBut.refl (regs : List WorkReg) (w : Work) : w.KeepsBut regs w := by
  simp [Work.KeepsBut]

/-- Keeping is transitive, and a larger list of groups keeps less. -/
theorem Work.KeepsBut.trans {r1 r2 regs : List WorkReg} {w1 w2 w3 : Work} (h12 : w1.KeepsBut r1 w2)
    (h23 : w2.KeepsBut r2 w3) (s1 : r1 ⊆ regs) (s2 : r2 ⊆ regs) : w1.KeepsBut regs w3 := by
  obtain ⟨a1, a2, a3, a4, a5, a6⟩ := h12
  obtain ⟨b1, b2, b3, b4, b5, b6⟩ := h23
  have n1 {x : WorkReg} (h : x ∉ regs) : x ∉ r1 := fun hx => h (s1 hx)
  have n2 {x : WorkReg} (h : x ∉ regs) : x ∉ r2 := fun hx => h (s2 hx)
  refine ⟨fun h => ?_, fun h => ?_, fun h => ?_, fun h => ?_, fun h => ?_, fun h => ?_⟩
  · rw [b1 (n2 h), a1 (n1 h)]
  · rw [(b2 (n2 h)).1, (b2 (n2 h)).2, (a2 (n1 h)).1, (a2 (n1 h)).2]; exact ⟨rfl, rfl⟩
  · obtain ⟨x1, x2, x3, x4, x5⟩ := b3 (n2 h)
    obtain ⟨y1, y2, y3, y4, y5⟩ := a3 (n1 h)
    exact ⟨x1.trans y1, x2.trans y2, x3.trans y3, x4.trans y4, x5.trans y5⟩
  · rw [b4 (n2 h), a4 (n1 h)]
  · rw [b5 (n2 h), a5 (n1 h)]
  · rw [b6 (n2 h), a6 (n1 h)]

/-! ### The deframer -/

theorem Ctx.deframe_eq_some {c c' : Ctx} {p : Packet} :
    c.deframe = some (p, c') ↔
      ∃ n, decodePacket c.rxbuf = .ok (p, n) ∧ c' = { c with rxbuf := c.rxbuf.drop n }.touch [.pk] := by
  unfold Ctx.deframe
  cases h : decodePacket c.rxbuf with
  | error e => simp
  | ok q => obtain ⟨q, n⟩ := q
            constructor
            · intro h; cases h; exact ⟨n, rfl, rfl⟩
            · rintro ⟨m, h, rfl⟩; cases h; rfl

theorem Ctx.deframe_eq_none {c : Ctx} : c.deframe = none ↔ noWholeFrame c.rxbuf := by
  unfold Ctx.deframe noWholeFrame
  cases h : decodePacket c.rxbuf with
  | error e => simp
  | ok q => obtain ⟨q, n⟩ := q; simp

/-! ### A turn -/

/-- What giving a turn can answer with a next state: the context took the step, or it waits. -/
theorem State.give_next {k : Nat} {f : Ctx → Turn} {mark : State → State} {s t : State} (h : s.give k f mark = .next t) :
    (∃ c c', s.ctx? k = some c ∧ f c = .ok c' ∧ t = mark (s.setCtx k c')) ∨
    (∃ c, s.ctx? k = some c ∧ f c = .error .waits ∧ t = s) := by
  unfold State.give at h
  cases hc : s.ctx? k with
  | none => simp [hc] at h
  | some c =>
    simp only [hc] at h
    cases hf : f c with
    | ok c' => simp only [hf] at h; cases h; exact .inl ⟨c, c', rfl, hf, rfl⟩
    | error e =>
      cases e with
      | waits => simp only [hf] at h; cases h; exact .inr ⟨c, rfl, hf, rfl⟩
      | refuses r => simp [hf] at h

theorem State.give_ok {k : Nat} {f : Ctx → Turn} {mark : State → State} {s : State} {c c' : Ctx} (hc : s.ctx? k = some c)
    (hf : f c = .ok c') : s.give k f mark = .next (mark (s.setCtx k c')) := by
  simp [State.give, hc, hf]

theorem State.give_waits {k : Nat} {f : Ctx → Turn} {mark : State → State} {s : State} {c : Ctx} (hc : s.ctx? k = some c)
    (hf : f c = .error .waits) : s.give k f mark = .next s := by
  simp [State.give, hc, hf]

theorem State.give_refuses {k : Nat} {f : Ctx → Turn} {mark : State → State} {s : State} {c : Ctx} {r : Refusal}
    (hc : s.ctx? k = some c) (hf : f c = .error (.refuses r)) : s.give k f mark = .refused r := by
  simp [State.give, hc, hf]

/-- What a turn can answer with a next state: the context took the step, or it waits. -/
theorem State.turn_next {k : Nat} {f : Ctx → Turn} {s t : State} (h : s.turn k f = .next t) :
    (∃ c c', s.ctx? k = some c ∧ f c = .ok c' ∧ t = { s.setCtx k c' with cur := k }) ∨
    (∃ c, s.ctx? k = some c ∧ f c = .error .waits ∧ t = s) := State.give_next h

theorem State.turn_took {k : Nat} {f : Ctx → Turn} {s : State} {c c' : Ctx} (hc : s.ctx? k = some c)
    (hf : f c = .ok c') : s.turn k f = .next { s.setCtx k c' with cur := k } := State.give_ok hc hf

theorem State.turn_waits {k : Nat} {f : Ctx → Turn} {s : State} {c : Ctx} (hc : s.ctx? k = some c)
    (hf : f c = .error .waits) : s.turn k f = .next s := State.give_waits hc hf

theorem State.turn_refuses {k : Nat} {f : Ctx → Turn} {s : State} {c : Ctx} {r : Refusal} (hc : s.ctx? k = some c)
    (hf : f c = .error (.refuses r)) : s.turn k f = .refused r := State.give_refuses hc hf

/-- What a command performed at a context's ports can answer with a next state (R52): the context took it, or it waits. -/
theorem State.perform_next {f : Ctx → Turn} {s t : State} (h : s.perform f = .next t) :
    (∃ c c', s.ctx? s.cur = some c ∧ f c = .ok c' ∧ t = { s.setCtx s.cur c' with started := true }) ∨
    (∃ c, s.ctx? s.cur = some c ∧ f c = .error .waits ∧ t = s) := State.give_next h

theorem State.perform_ok {f : Ctx → Turn} {s : State} {c c' : Ctx} (hc : s.ctx? s.cur = some c) (hf : f c = .ok c') :
    s.perform f = .next { s.setCtx s.cur c' with started := true } := State.give_ok hc hf

theorem State.perform_waits {f : Ctx → Turn} {s : State} {c : Ctx} (hc : s.ctx? s.cur = some c)
    (hf : f c = .error .waits) : s.perform f = .next s := State.give_waits hc hf

theorem State.perform_refuses {f : Ctx → Turn} {s : State} {c : Ctx} {r : Refusal} (hc : s.ctx? s.cur = some c)
    (hf : f c = .error (.refuses r)) : s.perform f = .refused r := State.give_refuses hc hf

theorem State.onCtx_next {k : Nat} {f : Ctx → Ctx} {s t : State} (h : s.onCtx k f = .next t) :
    ∃ c, s.ctx? k = some c ∧ t = s.setCtx k (f c) := by
  unfold State.onCtx at h
  cases hc : s.ctx? k with
  | none => simp [hc] at h
  | some c => simp only [hc] at h; cases h; exact ⟨c, rfl, rfl⟩

/-- Replacing one context changes nothing else. -/
theorem State.setCtx_onlyCtx {k : Nat} (c' : Ctx) (s : State) :
    s.OnlyCtx k { s.setCtx k c' with cur := k } := by
  refine ⟨rfl, by simp, fun j hj => ?_⟩
  exact State.ctx?_setCtx_ne c' hj

/-! ### The sender's steps -/

/-- What `MKDATA` returns on a payload within the length field. -/
theorem makeData_ok {seq : Word} {payload : Bytes} (h : payload.length ≤ 65535) :
    makeData seq payload = .ok (packetOf kindData seq (crc32 payload) (lenField payload.length) payload) := by
  simp [makeData, lenMax, Nat.not_lt.mpr h]

/-- What `ENCODE` returns on a payload within the length field. -/
theorem encodePacket_ok {p : Packet} (h : p.payload.length ≤ 65535) :
    encodePacket p =
      .ok (frameBytes p.kind p.sequenceNumber p.checksum (lenField p.payload.length) p.payload) := by
  simp [encodePacket, lenMax, lenField, Nat.not_lt.mpr h]

/-- The last stages of SendChunk, for a payload within the length field. -/
theorem Ctx.sendPayload_eq {P : Params} {payload : Bytes} {c : Ctx} (h : payload.length ≤ 65535) :
    c.sendPayload P payload =
      match (c.touch [.crc, .pk, .frame]).txWrite
        (frameBytes kindData c.seqCtr (crc32 payload) (lenField payload.length) payload) with
      | none => .error .waits
      | some (.writeErr _, c') => .ok (c'.fail .writeFailure)
      | some (.ok, c') => .ok (c'.awaitAck P) := by
  have h' : (packetOf kindData c.seqCtr (crc32 payload) (lenField payload.length) payload).payload.length ≤ 65535 := h
  simp only [Ctx.sendPayload, makeData_ok h, encodePacket_ok h']
  rfl

/-- Everything SendChunk does when it takes its step (R192, R210). -/
theorem Ctx.sendChunk_took {P : Params} {key : Option Block} {c c' : Ctx} (h : c.sendChunk P key = .ok c') :
    c.txState = .fetch ∧
    ((∃ ms, c.chunkIn = .srcErr :: ms ∧ c' = { c with chunkIn := ms }.fail .srcReadFailure) ∨
     (∃ ms, c.chunkIn = .chunk [] :: ms ∧
        c' = { { c with chunkIn := ms }.touch [.chunk] with txState := .done }) ∨
     (∃ k b ms rs, key = some k ∧ c.chunkIn = .chunk b :: ms ∧ b ≠ [] ∧ b.length ≤ 1024 ∧ c.rngIn = .rngErr :: rs ∧
        c' = { { c with chunkIn := ms }.touch [.chunk] with rngIn := rs }.fail .rngFailure) ∨
     (∃ k b ms iv rs, key = some k ∧ c.chunkIn = .chunk b :: ms ∧ b ≠ [] ∧ b.length ≤ 1024 ∧ c.rngIn = .ok iv :: rs ∧
        ({ { c with chunkIn := ms }.touch [.chunk] with rngIn := rs }.touch [.cipher]).sendPayload P
          (sealBytes (blockEncOf P k) iv b) = .ok c')) := by
  unfold Ctx.sendChunk at h
  by_cases hs : c.txState ≠ .fetch
  · simp [hs] at h
  · rw [if_neg hs] at h
    refine ⟨not_not.mp hs, ?_⟩
    cases hr : c.chunkRead with
    | none => simp [hr] at h
    | some q =>
      obtain ⟨m, c1⟩ := q
      obtain ⟨ms, hin, rfl⟩ := Ctx.chunkRead_eq_some.mp hr
      simp only [hr] at h
      cases m with
      | srcErr => cases h; exact .inl ⟨ms, hin, rfl⟩
      | chunk b =>
        simp only at h
        by_cases hl : b.length > chunkBytes
        · rw [if_pos hl] at h; cases h
        · rw [if_neg hl] at h
          have hl' : b.length ≤ 1024 := Nat.not_lt.mp hl
          by_cases hb : b = []
          · rw [if_pos hb] at h; subst hb; cases h; exact .inr (.inl ⟨ms, hin, rfl⟩)
          · rw [if_neg hb] at h
            unfold Ctx.sendPlain at h
            cases key with
            | none => cases h
            | some k =>
              simp only at h
              cases hd : ({ c with chunkIn := ms }.touch [.chunk]).rngDraw with
              | none => simp [hd] at h
              | some q =>
                obtain ⟨m, c2⟩ := q
                obtain ⟨rs, hrn, rfl⟩ := Ctx.rngDraw_eq_some.mp hd
                simp only [hd] at h
                cases m with
                | rngErr => cases h; exact .inr (.inr (.inl ⟨k, b, ms, rs, rfl, hin, hb, hl', hrn, rfl⟩))
                | ok iv => exact .inr (.inr (.inr ⟨k, b, ms, iv, rs, rfl, hin, hb, hl', hrn, h⟩))

/-- Everything AckRead does when it takes its step (R197, R200, R202, R203). -/
theorem Ctx.ackRead_took {P : Params} {c c' : Ctx} (h : c.ackRead P = .ok c') :
    c.txState = .awaitingAck ∧
    ((∃ ms, c.rxIn = .eof :: ms ∧ c' = { c with rxIn := ms }.fail .endOfStream) ∨
     (∃ ms, c.rxIn = .readErr :: ms ∧ c' = { c with rxIn := ms }.fail .readFailure) ∨
     (∃ b ms, c.rxIn = .read b :: ms ∧ b.length ≤ P.rxBufBytes ∧
        c' = ({ c with rxIn := ms }.touch [.rxRead]).ackBytes P b)) := by
  unfold Ctx.ackRead at h
  by_cases hs : c.txState ≠ .awaitingAck
  · simp [hs] at h
  · rw [if_neg hs] at h
    refine ⟨not_not.mp hs, ?_⟩
    cases hr : c.rxNext with
    | none => simp [hr] at h
    | some q =>
      obtain ⟨m, c1⟩ := q
      obtain ⟨ms, hin, rfl⟩ := Ctx.rxNext_eq_some.mp hr
      simp only [hr] at h
      cases m with
      | eof => cases h; exact .inl ⟨ms, hin, rfl⟩
      | readErr => cases h; exact .inr (.inl ⟨ms, hin, rfl⟩)
      | read b =>
        simp only at h
        by_cases hl : b.length > P.rxBufBytes
        · rw [if_pos hl] at h; cases h
        · rw [if_neg hl] at h; cases h
          exact .inr (.inr ⟨b, ms, hin, Nat.not_lt.mp hl, rfl⟩)

theorem Ctx.ackTimeout_took {c c' : Ctx} (h : c.ackTimeout = .ok c') :
    c.txState = .awaitingAck ∧ c.timerExpired = true ∧ c' = c.fail c.timeoutCause := by
  unfold Ctx.ackTimeout at h
  by_cases hs : c.txState = .awaitingAck ∧ c.timerExpired
  · rw [if_pos hs] at h; cases h; exact ⟨hs.1, hs.2, rfl⟩
  · rw [if_neg hs] at h; cases h

theorem Ctx.nextChunk_took {c c' : Ctx} (h : c.nextChunk = .ok c') :
    c.txState = .acked ∧ c.seqCtr ≠ 0xFFFFFFFF#32 ∧
      c' = { c with seqCtr := c.seqCtr + 1#32, txState := .fetch } := by
  unfold Ctx.nextChunk at h
  by_cases hs : c.txState ≠ .acked
  · simp [hs] at h
  · rw [if_neg hs] at h
    by_cases hq : c.seqCtr = 0xFFFFFFFF#32
    · rw [if_pos hq] at h; cases h
    · rw [if_neg hq] at h; cases h; exact ⟨not_not.mp hs, hq, rfl⟩

/-! ### The receiver's steps -/

/-- Everything RxRead does when it takes its step (R232, R239). -/
theorem Ctx.rxRead_took {P : Params} {key : Option Block} {c c' : Ctx} (h : c.rxRead P key = .ok c') :
    c.rxState = .serving ∧
    ((∃ ms, c.rxIn = .eof :: ms ∧ c' = { c with rxIn := ms }.close P (evEos (c.residue P))) ∨
     (∃ ms, c.rxIn = .readErr :: ms ∧ c' = { c with rxIn := ms }.close P evReadError) ∨
     (∃ b ms, c.rxIn = .read b :: ms ∧ b.length ≤ P.rxBufBytes ∧
        ({ c with rxIn := ms }.touch [.rxRead]).rxBytes P key b = .ok c')) := by
  unfold Ctx.rxRead at h
  by_cases hs : c.rxState ≠ .serving
  · simp [hs] at h
  · rw [if_neg hs] at h
    refine ⟨not_not.mp hs, ?_⟩
    cases hr : c.rxNext with
    | none => simp [hr] at h
    | some q =>
      obtain ⟨m, c1⟩ := q
      obtain ⟨ms, hin, rfl⟩ := Ctx.rxNext_eq_some.mp hr
      simp only [hr] at h
      cases m with
      | eof => cases h; exact .inl ⟨ms, hin, rfl⟩
      | readErr => cases h; exact .inr (.inl ⟨ms, hin, rfl⟩)
      | read b =>
        simp only at h
        by_cases hl : b.length > P.rxBufBytes
        · rw [if_pos hl] at h; cases h
        · rw [if_neg hl] at h
          exact .inr (.inr ⟨b, ms, hin, Nat.not_lt.mp hl, h⟩)

/-- An acknowledgment is one frame written, and at most one event (R235, R243). -/
theorem Ctx.sendAck_ok {seq : Word} {c c' : Ctx} (h : c.sendAck seq = .ok c') :
    ∃ a as evs, c.txAns = a :: as ∧
      c' = { c.touch [.crc, .pk, .frame] with
        txAns := as, txOut := c.txOut ++ [⟨ackFrame seq, a⟩], evtOut := c.evtOut ++ evs } := by
  unfold Ctx.sendAck at h
  cases hw : (c.touch [.crc, .pk, .frame]).txWrite (ackFrame seq) with
  | none => simp [hw] at h
  | some q =>
    obtain ⟨a, c1⟩ := q
    obtain ⟨as, hin, rfl⟩ := Ctx.txWrite_eq_some.mp hw
    simp only [hw] at h
    cases a with
    | ok => cases h; exact ⟨_, as, [], hin, by simp⟩
    | writeErr n => cases h; exact ⟨_, as, [evAckWriteFail seq], hin, rfl⟩

/-- The registers a receiver's packet handling and a reset of the ports leave alone: all of them but `rxbuf`. -/
structure Ctx.SameRegs (c c' : Ctx) : Prop where
  role : c'.role = c.role
  txState : c'.txState = c.txState
  seqCtr : c'.seqCtr = c.seqCtr
  ackTimer : c'.ackTimer = c.ackTimer
  timerArmed : c'.timerArmed = c.timerArmed
  mismatchSeen : c'.mismatchSeen = c.mismatchSeen
  errClass : c'.errClass = c.errClass
  errCause : c'.errCause = c.errCause
  errSeq : c'.errSeq = c.errSeq
  rxState : c'.rxState = c.rxState

theorem Ctx.SameRegs.refl (c : Ctx) : c.SameRegs c := ⟨rfl, rfl, rfl, rfl, rfl, rfl, rfl, rfl, rfl, rfl⟩

theorem Ctx.SameRegs.trans {a b c : Ctx} (h : a.SameRegs b) (g : b.SameRegs c) : a.SameRegs c :=
  ⟨g.1.trans h.1, g.2.trans h.2, g.3.trans h.3, g.4.trans h.4, g.5.trans h.5, g.6.trans h.6, g.7.trans h.7,
   g.8.trans h.8, g.9.trans h.9, g.10.trans h.10⟩

/-- A context with the registers of `a` in place of `a`. -/
theorem Ctx.SameRegs.after {a b c : Ctx} (g : b.SameRegs c) (h : a.SameRegs b) : a.SameRegs c := h.trans g

/-- The records `TX_OUT` gains in a step of a receiver are acknowledgments (R235). -/
def Ctx.WroteAcks (c c' : Ctx) : Prop :=
  ∃ rs : List TxRecord, c'.txOut = c.txOut ++ rs ∧ ∀ r ∈ rs, ∃ seq, r.frame = ackFrame seq

theorem Ctx.WroteAcks.refl (c : Ctx) : c.WroteAcks c := ⟨[], by simp, by simp⟩

theorem Ctx.WroteAcks.trans {a b c : Ctx} (h : a.WroteAcks b) (g : b.WroteAcks c) : a.WroteAcks c := by
  obtain ⟨r1, e1, h1⟩ := h
  obtain ⟨r2, e2, h2⟩ := g
  refine ⟨r1 ++ r2, by rw [e2, e1, List.append_assoc], fun r hr => ?_⟩
  rcases List.mem_append.mp hr with hr | hr
  · exact h1 r hr
  · exact h2 r hr

/-- Delivery touches no register and writes nothing on `TX_OUT` (R235, R238). -/
theorem Ctx.deliver_keeps {P : Params} {key : Option Block} {p : Packet} {c c' : Ctx} (h : c.deliver P key p = .ok c') :
    c.SameRegs c' ∧ c'.rxbuf = c.rxbuf ∧ c'.txOut = c.txOut := by
  simp only [Ctx.deliver] at h
  split at h
  · split at h
    · cases h
    · split at h
      · obtain rfl := Except.ok.inj h; exact ⟨by constructor <;> simp, by simp, by simp⟩
      · obtain rfl := Except.ok.inj h; exact ⟨by constructor <;> simp, by simp, by simp⟩
  · obtain rfl := Except.ok.inj h; exact ⟨by constructor <;> simp, by simp, by simp⟩

/-- Handling a packet changes no register (R234, R244), and writes at most acknowledgments. -/
theorem Ctx.handlePacket_keeps {P : Params} {key : Option Block} {p : Packet} {c c' : Ctx}
    (h : c.handlePacket P key p = .ok c') : c.SameRegs c' ∧ c'.rxbuf = c.rxbuf ∧ c.WroteAcks c' := by
  have emitted (e : Event) : c.SameRegs ((c.touch [.crc]).emit e) ∧ ((c.touch [.crc]).emit e).rxbuf = c.rxbuf ∧
      c.WroteAcks ((c.touch [.crc]).emit e) :=
    ⟨⟨rfl, rfl, rfl, rfl, rfl, rfl, rfl, rfl, rfl, rfl⟩, rfl, ⟨[], by simp, by simp⟩⟩
  simp only [Ctx.handlePacket] at h
  split at h
  · split at h
    · unfold Ctx.handleData at h
      cases hs : (c.touch [.crc]).sendAck p.sequenceNumber with
      | error e => simp [hs] at h
      | ok c1 =>
        simp only [hs] at h
        obtain ⟨a, as, evs, -, rfl⟩ := Ctx.sendAck_ok hs
        obtain ⟨hd, hb, ht⟩ := Ctx.deliver_keeps h
        refine ⟨hd.after ⟨rfl, rfl, rfl, rfl, rfl, rfl, rfl, rfl, rfl, rfl⟩, hb, ?_⟩
        exact ⟨[⟨ackFrame p.sequenceNumber, a⟩], ht, by simp⟩
    · split at h <;> (cases h; exact emitted _)
  · cases h; exact emitted _

/-! ### The loops: the frames a read completes -/

/-- A frame that was decoded takes at least 11 bytes, and no more than there are (R85, R174). -/
theorem decodePacket_consumed {b : Bytes} {p : Packet} {n : Nat} (h : decodePacket b = .ok (p, n)) :
    11 ≤ n ∧ n ≤ b.length ∧ n = 11 + p.payload.length ∧ p.payload.length = p.payloadLength.toNat := by
  unfold decodePacket at h
  split at h
  · split at h
    · cases h
    · rename_i hl
      cases h
      simp only [headerBytes, List.length_cons, List.length_take]
      omega
  · cases h

/-- With as many rounds as bytes, the loop of RxRead ends with no whole frame left; it changes no register but `rxbuf`,
and writes acknowledgments only (R239, R244). -/
theorem Ctx.rxFrames_keeps {P : Params} {key : Option Block} :
    ∀ {n : Nat} {c c' : Ctx}, c.rxbuf.length ≤ n → Ctx.rxFrames P key n c = .ok c' →
      c.SameRegs c' ∧ c.WroteAcks c' ∧ noWholeFrame c'.rxbuf
  | 0, c, c', hn, h => by
    cases h
    refine ⟨.refl c, .refl c, ?_⟩
    have : c.rxbuf = [] := List.length_eq_zero_iff.mp (Nat.le_zero.mp hn)
    rw [this]; intro p n; simp [decodePacket]
  | n + 1, c, c', hn, h => by
    unfold Ctx.rxFrames at h
    cases hd : c.deframe with
    | none => simp only [hd] at h; cases h; exact ⟨.refl c, .refl c, Ctx.deframe_eq_none.mp hd⟩
    | some q =>
      obtain ⟨p, c1⟩ := q
      simp only [hd] at h
      obtain ⟨m, hm, rfl⟩ := Ctx.deframe_eq_some.mp hd
      cases hp : ({ c with rxbuf := c.rxbuf.drop m }.touch [.pk]).handlePacket P key p with
      | error e => simp [hp] at h
      | ok c2 =>
        simp only [hp] at h
        obtain ⟨hs, hb, hw⟩ := Ctx.handlePacket_keeps hp
        have hlen : c2.rxbuf.length ≤ n := by
          rw [hb]
          have := (decodePacket_consumed hm).1
          simp only [Ctx.touch_rxbuf, List.length_drop]
          omega
        obtain ⟨hs', hw', hno⟩ := Ctx.rxFrames_keeps hlen h
        refine ⟨(hs.trans hs').after ⟨rfl, rfl, rfl, rfl, rfl, rfl, rfl, rfl, rfl, rfl⟩, ?_, hno⟩
        exact Ctx.WroteAcks.trans (Ctx.WroteAcks.trans (b := { c with rxbuf := c.rxbuf.drop m }.touch [.pk])
          ⟨[], by simp, by simp⟩ hw) hw'

/-- What the loop of AckRead leaves alone, and how it ends: accepted, or still waiting (R200, R210). -/
structure Ctx.AckLoop (c c' : Ctx) : Prop where
  role : c'.role = c.role
  seqCtr : c'.seqCtr = c.seqCtr
  ackTimer : c'.ackTimer = c.ackTimer
  errClass : c'.errClass = c.errClass
  errCause : c'.errCause = c.errCause
  errSeq : c'.errSeq = c.errSeq
  rxState : c'.rxState = c.rxState
  txOut : c'.txOut = c.txOut
  pktOut : c'.pktOut = c.pktOut
  plainOut : c'.plainOut = c.plainOut
  evtOut : c'.evtOut = c.evtOut
  inputs : c'.inputs = c.inputs
  ends : (c'.txState = .acked ∧ c'.timerArmed = false) ∨
    (c'.txState = c.txState ∧ c'.timerArmed = c.timerArmed)

theorem Ctx.AckLoop.refl (c : Ctx) : c.AckLoop c :=
  ⟨rfl, rfl, rfl, rfl, rfl, rfl, rfl, rfl, rfl, rfl, rfl, rfl, .inr ⟨rfl, rfl⟩⟩

theorem Ctx.AckLoop.trans {a b c : Ctx} (h : a.AckLoop b) (g : b.AckLoop c) : a.AckLoop c := by
  refine ⟨g.1.trans h.1, g.2.trans h.2, g.3.trans h.3, g.4.trans h.4, g.5.trans h.5, g.6.trans h.6, g.7.trans h.7,
    g.8.trans h.8, g.9.trans h.9, g.10.trans h.10, g.11.trans h.11, g.12.trans h.12, ?_⟩
  rcases g.ends with e | ⟨e1, e2⟩
  · exact .inl e
  · rcases h.ends with ⟨f1, f2⟩ | ⟨f1, f2⟩
    · exact .inl ⟨e1.trans f1, e2.trans f2⟩
    · exact .inr ⟨e1.trans f1, e2.trans f2⟩

theorem Ctx.ackFrames_keeps : ∀ (n : Nat) (c : Ctx), c.AckLoop (Ctx.ackFrames n c)
  | 0, c => .refl c
  | n + 1, c => by
    unfold Ctx.ackFrames
    cases hd : c.deframe with
    | none => exact .refl c
    | some q =>
      obtain ⟨p, c1⟩ := q
      obtain ⟨m, -, rfl⟩ := Ctx.deframe_eq_some.mp hd
      simp only
      split
      · exact ⟨rfl, rfl, rfl, rfl, rfl, rfl, rfl, rfl, rfl, rfl, rfl, rfl, .inl ⟨rfl, rfl⟩⟩
      · refine Ctx.AckLoop.trans ?_ (Ctx.ackFrames_keeps n _)
        exact ⟨rfl, rfl, rfl, rfl, rfl, rfl, rfl, rfl, rfl, rfl, rfl, rfl, .inr ⟨rfl, rfl⟩⟩

theorem Ctx.ackPacket_keeps (p : Packet) (c : Ctx) : c.AckLoop (c.ackPacket p) ∧ (c.ackPacket p).rxbuf = c.rxbuf := by
  unfold Ctx.ackPacket
  split
  · exact ⟨⟨rfl, rfl, rfl, rfl, rfl, rfl, rfl, rfl, rfl, rfl, rfl, rfl, .inl ⟨rfl, rfl⟩⟩, rfl⟩
  · exact ⟨⟨rfl, rfl, rfl, rfl, rfl, rfl, rfl, rfl, rfl, rfl, rfl, rfl, .inr ⟨rfl, rfl⟩⟩, rfl⟩

/-- The bytes of a read at a waiting sender: in `PerRead` framing they may be no frame, which fails the transfer; in every
other case the sender accepts or waits on (R197, R200, R203). -/
theorem Ctx.ackBytes_cases (P : Params) (b : Bytes) (c : Ctx) :
    (P.rxFraming = .perRead ∧ ∃ e, decodePacket b = .error e ∧ c.ackBytes P b = c.fail (framingErr e)) ∨
    (c.AckLoop (c.ackBytes P b) ∧ (P.rxFraming = .perRead → (c.ackBytes P b).rxbuf = c.rxbuf)) := by
  unfold Ctx.ackBytes
  cases P.rxFraming with
  | perRead =>
    cases hd : decodePacket b with
    | error e => exact .inl ⟨rfl, e, rfl, rfl⟩
    | ok q =>
      obtain ⟨h1, h2⟩ := Ctx.ackPacket_keeps q.1 (c.touch [.pk])
      refine .inr ⟨Ctx.AckLoop.trans ?_ h1, fun _ => h2⟩
      exact ⟨rfl, rfl, rfl, rfl, rfl, rfl, rfl, rfl, rfl, rfl, rfl, rfl, .inr ⟨rfl, rfl⟩⟩
  | reassemble =>
    refine .inr ⟨Ctx.AckLoop.trans ?_ (Ctx.ackFrames_keeps _ _), fun h => (nomatch h)⟩
    exact ⟨rfl, rfl, rfl, rfl, rfl, rfl, rfl, rfl, rfl, rfl, rfl, rfl, .inr ⟨rfl, rfl⟩⟩

/-- The bytes of a read at a receiver: no register changes but `rxbuf`, acknowledgments are all that is written, and in
`Reassemble` framing no whole frame is left (R232, R239, R244). -/
theorem Ctx.rxBytes_keeps {P : Params} {key : Option Block} {b : Bytes} {c c' : Ctx} (h : c.rxBytes P key b = .ok c') :
    c.SameRegs c' ∧ c.WroteAcks c' ∧ (P.rxFraming = .perRead → c'.rxbuf = c.rxbuf) ∧
      (P.rxFraming = .reassemble → noWholeFrame c'.rxbuf) := by
  unfold Ctx.rxBytes at h
  cases hf : P.rxFraming with
  | perRead =>
    simp only [hf] at h
    cases hd : decodePacket b with
    | error e =>
      simp only [hd] at h
      cases h
      exact ⟨⟨rfl, rfl, rfl, rfl, rfl, rfl, rfl, rfl, rfl, rfl⟩, ⟨[], by simp, by simp⟩, fun _ => rfl, fun h => (nomatch h)⟩
    | ok q =>
      simp only [hd] at h
      obtain ⟨hs, hb, hw⟩ := Ctx.handlePacket_keeps h
      refine ⟨hs.after ⟨rfl, rfl, rfl, rfl, rfl, rfl, rfl, rfl, rfl, rfl⟩, ?_, fun _ => hb, fun h => (nomatch h)⟩
      exact Ctx.WroteAcks.trans (b := c.touch [.pk]) ⟨[], by simp, by simp⟩ hw
  | reassemble =>
    simp only [hf] at h
    obtain ⟨hs, hw, hno⟩ := Ctx.rxFrames_keeps (c := { c with rxbuf := c.rxbuf ++ b }) (Nat.le_refl _) h
    refine ⟨hs.after ⟨rfl, rfl, rfl, rfl, rfl, rfl, rfl, rfl, rfl, rfl⟩, ?_, fun h => (nomatch h), fun _ => hno⟩
    exact Ctx.WroteAcks.trans (b := { c with rxbuf := c.rxbuf ++ b }) ⟨[], by simp, by simp⟩ hw

end Sys2Proof.Machine
end

