-- ==== Sys2Proof/Laws/PerInstr.lean ====
section
/-! SUPPORT. The statement made of every instruction, one lemma per constructor: the message that encodes a
well-formed instruction is, by the masks and matches of spec/opcode_table.json taken in order, of that
instruction's row and of no earlier one. -/

namespace Sys2Proof.Laws.RowMatch

open Sys2Proof

/-- The header word `H` of a frame (R81). -/
def headerWord : Bytes → Option (BitVec 88)
  | f0 :: f1 :: f2 :: f3 :: f4 :: f5 :: f6 :: f7 :: f8 :: f9 :: f10 :: _ =>
    some (f0 ++ (f1 ++ f2 ++ f3 ++ f4 ++ f5 ++ f6 ++ f7 ++ f8 ++ f9 ++ f10 : BitVec 80))
  | _ => none

/-- The frame rows of the table: mnemonic, match and mask over `H`, tried in order (R95). -/
def frameRows : List (String × BitVec 88 × BitVec 88) :=
  [("DATA", 0x0100000000000000000000#88, 0xFF00000000000000000000#88),
   ("ACKF", 0x0200000000000000000000#88, 0xFF00000000000000000000#88),
   ("UNKNOWN", 0x0000000000000000000000#88, 0x0000000000000000000000#88)]

/-- The command rows of the table: mnemonic and match over `op[3:0]`; every mask is 0xF (R91, R92, R95). -/
def commandRows : List (String × BitVec 4) :=
  [("CRC32", 0x1#4), ("VERIFY", 0x2#4), ("ENCRYPT", 0x3#4), ("DECRYPT", 0x4#4), ("ENCODE", 0x5#4),
   ("DECODE", 0x6#4), ("MKDATA", 0x7#4), ("MKACK", 0x8#4), ("SEND", 0x9#4), ("SERVE", 0xA#4)] ++
  [("RESERVED_0", 0x0#4), ("RESERVED_B", 0xB#4), ("RESERVED_C", 0xC#4), ("RESERVED_D", 0xD#4),
   ("RESERVED_E", 0xE#4), ("RESERVED_F", 0xF#4)]

/-- The mnemonic of the command row of an operation code. -/
def commandRow (op : BitVec 4) : Option String :=
  (commandRows.find? fun r => op &&& 0xF#4 == r.2).map (·.1)

/-- The mnemonic of the first row that a message matches. -/
def rowOf : Msg → Option String
  | .frame b =>
    match headerWord b with
    | none => none
    | some h => (frameRows.find? fun r => h &&& r.2.2 == r.2.1).map (·.1)
  | .cmd m => commandRow m.op

/-- The mnemonic of an instruction's row. -/
def mnemonic : Instr → String
  | .data _ _ _ _ => "DATA"
  | .ackf _ _ _ _ => "ACKF"
  | .unknown _ _ _ _ _ => "UNKNOWN"
  | .crc32 _ _ => "CRC32"
  | .verify _ _ => "VERIFY"
  | .encrypt _ _ => "ENCRYPT"
  | .decrypt _ _ => "DECRYPT"
  | .encode _ _ => "ENCODE"
  | .decode _ _ => "DECODE"
  | .mkdata _ _ _ => "MKDATA"
  | .mkack _ _ => "MKACK"
  | .send _ => "SEND"
  | .serve _ => "SERVE"
  | .reserved0 _ _ => "RESERVED_0"
  | .reservedB _ _ => "RESERVED_B"
  | .reservedC _ _ => "RESERVED_C"
  | .reservedD _ _ => "RESERVED_D"
  | .reservedE _ _ => "RESERVED_E"
  | .reservedF _ _ => "RESERVED_F"

/-- The statement: the encoding of a well-formed instruction is of the instruction's row. -/
def Statement (i : Instr) : Prop := i.WellFormed = true → rowOf (encode i) = some (mnemonic i)

/-- The mask of the two known kinds looks at the kind byte alone (R81). -/
theorem masked_eq (k m : Byte) (rest : BitVec 80) :
    ((k ++ rest : BitVec 88) &&& (0xFF#8 ++ 0#80 : BitVec 88) == (m ++ 0#80 : BitVec 88)) = (k == m) := by
  rw [BitVec.and_append, BitVec.and_zero, show k &&& 0xFF#8 = k from BitVec.and_allOnes]
  by_cases h : k = m
  · simp [h]
  · have : (k ++ 0#80 : BitVec 88) ≠ m ++ 0#80 := fun e => h (by
      have := congrArg (BitVec.extractLsb' 80 8) e
      rwa [BitVec.extractLsb'_append_eq_left, BitVec.extractLsb'_append_eq_left] at this)
    simp [h, this]

/-- The row of the frame of any fields, by its kind byte. -/
theorem rowOf_frameBytes (kind : Byte) (seq cks : Word) (len : Half) (payload : Bytes) :
    rowOf (.frame (frameBytes kind seq cks len payload)) =
      some (if kind = kindData then "DATA" else if kind = kindAck then "ACKF" else "UNKNOWN") := by
  have h1 := masked_eq kind kindData
  have h2 := masked_eq kind kindAck
  simp only [rowOf, headerWord, frameBytes, be32, be16, List.cons_append, List.nil_append, frameRows,
    List.find?_cons]
  rw [show (0xFF00000000000000000000#88) = (0xFF#8 ++ 0#80 : BitVec 88) from rfl,
    show (0x0100000000000000000000#88) = (kindData ++ 0#80 : BitVec 88) from rfl,
    show (0x0200000000000000000000#88) = (kindAck ++ 0#80 : BitVec 88) from rfl, h1, h2]
  by_cases k1 : kind = kindData
  · simp [k1]
  · rw [beq_eq_false_iff_ne.mpr k1]
    by_cases k2 : kind = kindAck
    · rw [k2, beq_self_eq_true]; rfl
    · rw [beq_eq_false_iff_ne.mpr k2, if_neg k1, if_neg k2]; simp

theorem data (seq cks : Word) (len : Half) (payload : Bytes) : Statement (.data seq cks len payload) := fun _ =>
  (rowOf_frameBytes _ _ _ _ _).trans rfl

theorem ackf (seq cks : Word) (len : Half) (payload : Bytes) : Statement (.ackf seq cks len payload) := fun _ =>
  (rowOf_frameBytes _ _ _ _ _).trans rfl

theorem unknown (kind : Byte) (seq cks : Word) (len : Half) (payload : Bytes) :
    Statement (.unknown kind seq cks len payload) := fun h => by
  simp only [Instr.WellFormed, Bool.and_eq_true, bne_iff_ne] at h
  exact (rowOf_frameBytes _ _ _ _ _).trans (by simp [h.1.2, h.2, mnemonic])

theorem crc32 (ctx : Nat) (b : Bytes) : Statement (.crc32 ctx b) := fun _ =>
  (by decide : commandRow 0x1#4 = some "CRC32")
theorem verify (ctx : Nat) (p : Packet) : Statement (.verify ctx p) := fun _ =>
  (by decide : commandRow 0x2#4 = some "VERIFY")
theorem encrypt (ctx : Nat) (b : Bytes) : Statement (.encrypt ctx b) := fun _ =>
  (by decide : commandRow 0x3#4 = some "ENCRYPT")
theorem decrypt (ctx : Nat) (b : Bytes) : Statement (.decrypt ctx b) := fun _ =>
  (by decide : commandRow 0x4#4 = some "DECRYPT")
theorem encode (ctx : Nat) (p : Packet) : Statement (.encode ctx p) := fun _ =>
  (by decide : commandRow 0x5#4 = some "ENCODE")
theorem decode (ctx : Nat) (b : Bytes) : Statement (.decode ctx b) := fun _ =>
  (by decide : commandRow 0x6#4 = some "DECODE")
theorem mkdata (ctx : Nat) (v : Word) (b : Bytes) : Statement (.mkdata ctx v b) := fun _ =>
  (by decide : commandRow 0x7#4 = some "MKDATA")
theorem mkack (ctx : Nat) (v : Word) : Statement (.mkack ctx v) := fun _ =>
  (by decide : commandRow 0x8#4 = some "MKACK")
theorem send (ctx : Nat) : Statement (.send ctx) := fun _ =>
  (by decide : commandRow 0x9#4 = some "SEND")
theorem serve (ctx : Nat) : Statement (.serve ctx) := fun _ =>
  (by decide : commandRow 0xA#4 = some "SERVE")
theorem reserved0 (ctx : Nat) (args : List Arg) : Statement (.reserved0 ctx args) := fun _ =>
  (by decide : commandRow 0x0#4 = some "RESERVED_0")
theorem reservedB (ctx : Nat) (args : List Arg) : Statement (.reservedB ctx args) := fun _ =>
  (by decide : commandRow 0xB#4 = some "RESERVED_B")
theorem reservedC (ctx : Nat) (args : List Arg) : Statement (.reservedC ctx args) := fun _ =>
  (by decide : commandRow 0xC#4 = some "RESERVED_C")
theorem reservedD (ctx : Nat) (args : List Arg) : Statement (.reservedD ctx args) := fun _ =>
  (by decide : commandRow 0xD#4 = some "RESERVED_D")
theorem reservedE (ctx : Nat) (args : List Arg) : Statement (.reservedE ctx args) := fun _ =>
  (by decide : commandRow 0xE#4 = some "RESERVED_E")
theorem reservedF (ctx : Nat) (args : List Arg) : Statement (.reservedF ctx args) := fun _ =>
  (by decide : commandRow 0xF#4 = some "RESERVED_F")

end Sys2Proof.Laws.RowMatch
end

