-- ==== Sys2Proof/Laws/Step.lean ====
section
/-! SUPPORT. What an instruction, a move and a step can do, said once: every context after a step comes from the same
context before it by one of the changes of the rules, and the rest of the state follows the move. -/

namespace Sys2Proof.Machine

open Sys2Proof

/-- What one step can make of one context: the sequencer steps, the two starts, a frame, a tick, or a change of its host
ports, pending inputs and working registers alone. Resets are apart. -/
inductive Ctx.Change (P : Params) (key : Option Block) : Ctx → Ctx → Prop
  | ports (c c' : Ctx) (hv : c'.view = { c.view with rsp := c'.rsp }) : Ctx.Change P key c c'
  | send (c c' : Ctx) (hr : c.role = .none) (ht : c.txState = .idle)
      (hv : c'.view = { c.startSender.view with rsp := c'.rsp }) : Ctx.Change P key c c'
  | serve (c c' : Ctx) (hr : c.role = .none) (ht : c.rxState = .idle)
      (hv : c'.view = { c.startReceiver.view with rsp := c'.rsp }) : Ctx.Change P key c c'
  | sendChunk (c c' : Ctx) (h : c.sendChunk P key = .ok c') : Ctx.Change P key c c'
  | ackRead (c c' : Ctx) (h : c.ackRead P = .ok c') : Ctx.Change P key c c'
  | ackTimeout (c c' : Ctx) (h : c.ackTimeout = .ok c') : Ctx.Change P key c c'
  | nextChunk (c c' : Ctx) (h : c.nextChunk = .ok c') : Ctx.Change P key c c'
  | rxRead (c c' : Ctx) (h : c.rxRead P key = .ok c') : Ctx.Change P key c c'
  | receive (c c' : Ctx) (p : Packet) (h : c.receive P key p = .ok c') : Ctx.Change P key c c'
  | tick (c : Ctx) : Ctx.Change P key c c.tick

theorem Ctx.Change.same {P : Params} {key : Option Block} (c : Ctx) : Ctx.Change P key c c := .ports c c rfl

/-- The contexts of `t` come from those of `s` by `Ctx.Change`; nothing a build fixes has changed. -/
def State.Changed (s t : State) : Prop :=
  t.params = s.params ∧ t.ctxs.length = s.ctxs.length ∧
    ∀ k c', t.ctx? k = some c' → ∃ c, s.ctx? k = some c ∧ Ctx.Change s.params s.cipherKey c c'

theorem State.Changed.of_ctxs_eq {s t : State} (hp : t.params = s.params) (hc : t.ctxs = s.ctxs) : s.Changed t :=
  ⟨hp, by rw [hc], fun k c' h => ⟨c', by simpa [State.ctx?, hc] using h, .same c'⟩⟩

/-- Replacing one context by a change of it. -/
theorem State.Changed.of_setCtx {s t : State} {k : Nat} {c c' : Ctx} (hc : s.ctx? k = some c)
    (hch : Ctx.Change s.params s.cipherKey c c') (hp : t.params = s.params) (ht : t.ctxs = s.ctxs.set k c') :
    s.Changed t := by
  refine ⟨hp, by rw [ht, List.length_set], fun j d hd => ?_⟩
  have hd' : (s.setCtx k c').ctx? j = some d := by simpa [State.ctx?, ht] using hd
  by_cases hj : j = k
  · subst hj
    rw [State.ctx?_setCtx_self hc] at hd'
    cases hd'
    exact ⟨c, hc, hch⟩
  · rw [State.ctx?_setCtx_ne c' hj] at hd'
    exact ⟨d, hd', .same d⟩

theorem State.turn_changed {s t : State} {k : Nat} {f : Ctx → Turn}
    (hf : ∀ c c', f c = .ok c' → Ctx.Change s.params s.cipherKey c c') (h : s.turn k f = .next t) : s.Changed t := by
  rcases State.turn_next h with ⟨c, c', hc, htook, rfl⟩ | ⟨c, hc, -, rfl⟩
  · exact .of_setCtx hc (hf c c' htook) rfl rfl
  · exact .of_ctxs_eq rfl rfl

theorem State.onCtx_changed {s t : State} {k : Nat} {f : Ctx → Ctx}
    (h : s.onCtx k f = .next t) (hv : ∀ c, (f c).view = c.view) : s.Changed t := by
  obtain ⟨c, hc, rfl⟩ := State.onCtx_next h
  exact .of_setCtx hc (.ports c (f c) ((hv c).trans (by rw [show (f c).rsp = c.rsp from congrArg Ctx.View.rsp (hv c)]; rfl)))
    rfl rfl

/-- What an instruction leaves of the rest of the state: it changes contexts, and the model's own `cur` and `started`. -/
def State.KeepsRest (s t : State) : Prop := t = { s with ctxs := t.ctxs, cur := t.cur, started := t.started }

/-- A command that changes the host ports and the working registers of its context alone. -/
theorem State.perform_changed {s t : State} {f : Ctx → Turn}
    (hf : ∀ c c', f c = .ok c' → c'.view = { c.view with rsp := c'.rsp }) (h : s.perform f = .next t) :
    s.Changed t ∧ s.KeepsRest t := by
  rcases State.perform_next h with ⟨c, c', hc, htook, rfl⟩ | ⟨c, hc, -, rfl⟩
  · exact ⟨.of_setCtx hc (.ports c c' (hf c c' htook)) rfl rfl, rfl⟩
  · exact ⟨.of_ctxs_eq rfl rfl, rfl⟩

theorem State.answer_changed {s t : State} {regs : List WorkReg} {r : Response} (h : s.answer regs r = .next t) :
    s.Changed t ∧ s.KeepsRest t := State.perform_changed (fun c c' h => by cases h; rfl) h

theorem State.reply_changed {s t : State} {r : Response} (h : s.reply r = .next t) : s.Changed t ∧ s.KeepsRest t :=
  State.perform_changed (fun c c' h => by cases h; rfl) h

/-- A start of context `k`, answered at the ports of the context `cur`, be it the same or another. -/
theorem State.start_changed {s t : State} {k : Nat} {c c1 : Ctx} {r : Response} (hc : s.ctx? k = some c)
    (hch : ∀ c', c'.view = { c1.view with rsp := c'.rsp } → Ctx.Change s.params s.cipherKey c c')
    (h : (s.setCtx k c1).reply r = .next t) : s.Changed t ∧ s.KeepsRest t := by
  rcases State.perform_next h with ⟨d, d', hd, htook, rfl⟩ | ⟨d, hd, hw, rfl⟩
  · cases htook
    refine ⟨⟨rfl, by simp, fun j c' hj => ?_⟩, rfl⟩
    change ((s.setCtx k c1).setCtx s.cur (d.respond r)).ctx? j = some c' at hj
    change (s.setCtx k c1).ctx? s.cur = some d at hd
    by_cases hjc : j = s.cur
    · subst hjc
      rw [State.ctx?_setCtx_self hd] at hj
      cases hj
      by_cases hk : s.cur = k
      · subst hk
        rw [State.ctx?_setCtx_self hc] at hd
        cases hd
        exact ⟨c, hc, hch _ rfl⟩
      · rw [State.ctx?_setCtx_ne c1 hk] at hd
        exact ⟨d, hd, .ports d _ rfl⟩
    · rw [State.ctx?_setCtx_ne _ hjc] at hj
      by_cases hk : j = k
      · subst hk
        rw [State.ctx?_setCtx_self hc] at hj
        cases hj
        exact ⟨c, hc, hch _ rfl⟩
      · rw [State.ctx?_setCtx_ne c1 hk] at hj
        exact ⟨c', hj, .same c'⟩
  · cases hw

/-- Every instruction that answers a next state changes the contexts by the rules alone, and neither `KEY` nor a
parameter (R72). -/
theorem exec_changed {i : Instr} {s t : State} (h : exec i s = .next t) : s.Changed t ∧ s.KeepsRest t := by
  have frame (p : Packet) (h : s.receive p = .next t) : s.Changed t ∧ s.KeepsRest t := by
    refine ⟨State.turn_changed (fun c c' hc => .receive c c' p hc) h, ?_⟩
    rcases State.turn_next h with ⟨c, c', -, -, rfl⟩ | ⟨c, -, -, rfl⟩ <;> rfl
  cases i with
  | data => exact frame _ h
  | ackf => exact frame _ h
  | unknown => exact frame _ h
  | crc32 => exact State.answer_changed h
  | verify => exact State.answer_changed h
  | encrypt ctx p =>
    refine State.perform_changed (fun c c' hc => ?_) h
    unfold Ctx.encrypt at hc
    split at hc
    · cases hc
    · split at hc
      · cases hc
      · obtain ⟨rs, -, rfl⟩ := Ctx.rngDraw_eq_some.mp ‹_›; cases hc; rfl
      · obtain ⟨rs, -, rfl⟩ := Ctx.rngDraw_eq_some.mp ‹_›; cases hc; rfl
  | decrypt ctx d =>
    refine State.perform_changed (fun c c' hc => ?_) h
    unfold Ctx.decrypt at hc
    split at hc
    · cases hc
    · split at hc <;> (cases hc; rfl)
  | encode ctx p =>
    simp only [exec, execEncode] at h
    split at h <;> exact State.reply_changed h
  | decode ctx b =>
    simp only [exec, execDecode] at h
    split at h
    · exact State.reply_changed h
    · exact State.answer_changed h
  | mkdata ctx seq payload =>
    simp only [exec, execMkdata] at h
    split at h
    · exact State.reply_changed h
    · exact State.answer_changed h
  | mkack => exact State.answer_changed h
  | send k =>
    simp only [exec, execSend] at h
    cases hc : s.ctx? k with
    | none => simp [hc] at h
    | some c =>
      simp only [hc] at h
      split at h
      · rename_i hi
        exact State.start_changed hc (fun c' hv => .send c c' hi.1 hi.2 hv) h
      · exact State.reply_changed h
  | serve k =>
    simp only [exec, execServe] at h
    cases hc : s.ctx? k with
    | none => simp [hc] at h
    | some c =>
      simp only [hc] at h
      split at h
      · rename_i hi
        exact State.start_changed hc (fun c' hv => .serve c c' hi.1 hi.2 hv) h
      · exact State.reply_changed h
  | reserved0 => cases h
  | reservedB => cases h
  | reservedC => cases h
  | reservedD => cases h
  | reservedE => cases h
  | reservedF => cases h

/-- The command the core takes at a context: nothing pending, or an instruction performed there. -/
theorem State.takeCommand_next {k : Nat} {s t : State} (h : s.takeCommand k = .next t) :
    ∃ c, s.ctx? k = some c ∧
      ((c.cmdIn = [] ∧ t = s) ∨
        ∃ m ms i, c.cmdIn = m :: ms ∧ decodeCmd m = .ok i ∧ exec i { s with cur := k } = .next t) := by
  unfold State.takeCommand at h
  cases hc : s.ctx? k with
  | none => simp [hc] at h
  | some c =>
    refine ⟨c, rfl, ?_⟩
    simp only [hc] at h
    cases hm : c.cmdIn with
    | nil => simp only [hm] at h; cases h; exact .inl ⟨rfl, rfl⟩
    | cons m ms =>
      simp only [hm] at h
      cases hd : decodeCmd m with
      | error e => simp [hd] at h
      | ok i => simp only [hd] at h; exact .inr ⟨m, ms, i, rfl, hd, h⟩

/-- Every move that answers a next state and is no reset changes the contexts by the rules alone. -/
theorem runMove_changed {m : Move} {s t : State} (hr : ∀ k, m.resets k = false) (h : runMove m s = .next t) :
    s.Changed t := by
  cases m with
  | host k =>
    obtain ⟨c, -, ⟨-, rfl⟩ | ⟨m, ms, i, -, -, hi⟩⟩ := State.takeCommand_next h
    · exact .of_ctxs_eq rfl rfl
    · exact (exec_changed hi).1
  | sendChunk k => exact State.turn_changed (fun c c' hc => .sendChunk c c' hc) h
  | ackRead k => exact State.turn_changed (fun c c' hc => .ackRead c c' hc) h
  | ackTimeout k => exact State.turn_changed (fun c c' hc => .ackTimeout c c' hc) h
  | nextChunk k => exact State.turn_changed (fun c c' hc => .nextChunk c c' hc) h
  | rxRead k => exact State.turn_changed (fun c c' hc => .rxRead c c' hc) h
  | tick =>
    cases h
    refine ⟨rfl, by simp, fun k c' hc => ?_⟩
    simp only [State.ctx?, List.getElem?_map, Option.map_eq_some_iff] at hc
    obtain ⟨c, hc, rfl⟩ := hc
    exact ⟨c, hc, .tick c⟩
  | resetCtx k discard => exact absurd (hr k) (by simp [Move.resets])
  | resetAll => exact absurd (hr 0) (by simp [Move.resets])
  | loadKey key =>
    obtain ⟨-, -, -, rfl⟩ := State.loadKey_next h
    exact .of_ctxs_eq rfl rfl
  | offerCmd k m => exact State.onCtx_changed h fun _ => rfl
  | offerRng k r => exact State.onCtx_changed h fun _ => rfl
  | offerChunk k r => exact State.onCtx_changed h fun _ => rfl
  | answerTx k r => exact State.onCtx_changed h fun _ => rfl
  | offerRx k r => exact State.onCtx_changed h fun _ => rfl

/-- What a move can make of a context: a change of the rules, or, if the move resets it, the reset (R301). -/
theorem runMove_ctx {m : Move} {s t : State} (h : runMove m s = .next t) :
    t.params = s.params ∧ t.ctxs.length = s.ctxs.length ∧
      ∀ k c', t.ctx? k = some c' → ∃ c, s.ctx? k = some c ∧
        (Ctx.Change s.params s.cipherKey c c' ∨ (m.resets k = true ∧ ∃ d, c' = c.disconnect d)) := by
  by_cases hr : ∀ k, m.resets k = false
  · obtain ⟨hp, hl, hc⟩ := runMove_changed hr h
    exact ⟨hp, hl, fun k c' hk => let ⟨c, h1, h2⟩ := hc k c' hk; ⟨c, h1, .inl h2⟩⟩
  · cases m with
    | resetCtx j discard =>
      obtain ⟨c, hc, rfl⟩ := State.onCtx_next h
      refine ⟨rfl, by simp, fun k c' hk => ?_⟩
      by_cases hj : k = j
      · subst hj
        rw [State.ctx?_setCtx_self hc] at hk
        cases hk
        exact ⟨c, hc, .inr ⟨by simp [Move.resets], discard, rfl⟩⟩
      · rw [State.ctx?_setCtx_ne _ hj] at hk
        exact ⟨c', hk, .inl (.same c')⟩
    | resetAll =>
      cases h
      refine ⟨rfl, by simp, fun k c' hk => ?_⟩
      simp only [State.ctx?, State.resetAll_ctxs, List.getElem?_map, Option.map_eq_some_iff] at hk
      obtain ⟨c, hc, rfl⟩ := hk
      exact ⟨c, hc, .inr ⟨rfl, false, rfl⟩⟩
    | host => exact absurd (fun _ => rfl) hr
    | sendChunk => exact absurd (fun _ => rfl) hr
    | ackRead => exact absurd (fun _ => rfl) hr
    | ackTimeout => exact absurd (fun _ => rfl) hr
    | nextChunk => exact absurd (fun _ => rfl) hr
    | rxRead => exact absurd (fun _ => rfl) hr
    | tick => exact absurd (fun _ => rfl) hr
    | loadKey => exact absurd (fun _ => rfl) hr
    | offerCmd => exact absurd (fun _ => rfl) hr
    | offerRng => exact absurd (fun _ => rfl) hr
    | offerChunk => exact absurd (fun _ => rfl) hr
    | answerTx => exact absurd (fun _ => rfl) hr
    | offerRx => exact absurd (fun _ => rfl) hr

/-- A step without a move changes nothing; with one, it is that move on the rest of the schedule. -/
theorem step_cases {s t : State} (h : step s = .next t) :
    (s.sched = [] ∧ t = s) ∨ ∃ m rest, s.sched = m :: rest ∧ runMove m { s with sched := rest } = .next t := by
  unfold step at h
  cases hm : s.sched with
  | nil => simp only [hm] at h; cases h; exact .inl ⟨rfl, rfl⟩
  | cons m rest => simp only [hm] at h; exact .inr ⟨m, rest, rfl, h⟩

/-- What a step can make of a context. -/
theorem step_ctx {s t : State} (h : step s = .next t) :
    t.params = s.params ∧ t.ctxs.length = s.ctxs.length ∧
      ∀ k c', t.ctx? k = some c' → ∃ c, s.ctx? k = some c ∧
        (Ctx.Change s.params s.cipherKey c c' ∨ ((∃ m rest, s.sched = m :: rest ∧ m.resets k = true) ∧ ∃ d, c' = c.disconnect d)) := by
  rcases step_cases h with ⟨-, rfl⟩ | ⟨m, rest, hs, hm⟩
  · exact ⟨rfl, rfl, fun k c' hk => ⟨c', hk, .inl (.same c')⟩⟩
  · obtain ⟨hp, hl, hc⟩ := runMove_ctx hm
    refine ⟨hp, hl, fun k c' hk => ?_⟩
    obtain ⟨c, h1, h2⟩ := hc k c' hk
    refine ⟨c, h1, ?_⟩
    rcases h2 with h2 | ⟨h2, h3⟩
    · exact .inl h2
    · exact .inr ⟨⟨m, rest, hs, h2⟩, h3⟩

/-- A property of contexts that every change and every reset keeps is kept by every step: the one induction every
invariant goes through. -/
theorem step_keeps {Q : Params → Ctx → Prop}
    (hc : ∀ P key c c', Q P c → Ctx.Change P key c c' → Q P c') (hr : ∀ P c d, Q P c → Q P (c.disconnect d))
    {s t : State} (hs : ∀ c ∈ s.ctxs, Q s.params c) (h : step s = .next t) : ∀ c ∈ t.ctxs, Q t.params c := by
  obtain ⟨hp, -, hk⟩ := step_ctx h
  intro c' hmem
  obtain ⟨k, hlt, rfl⟩ := List.getElem_of_mem hmem
  obtain ⟨c, h1, h2⟩ := hk k _ (List.getElem?_eq_getElem hlt)
  have hQ := hs c (State.ctx?_mem h1)
  rw [hp]
  rcases h2 with h2 | ⟨-, h3⟩
  · exact hc _ _ _ _ hQ h2
  · obtain ⟨d, h3⟩ := h3; rw [h3]; exact hr _ _ d hQ

end Sys2Proof.Machine
end

