-- ==== Sys2Proof/Laws/Stream.lean ====
section
/-! SUPPORT. Byte streams as runs of frames: a frame at the front of a stream decodes, a stream is a run of whole frames and
an incomplete rest, and what the deframer and the loop of AckRead do with one. -/

namespace Sys2Proof.Machine

open Sys2Proof

/-- A frame at the front of a stream decodes to its fields (R174, R175). -/
theorem decodePacket_frameBytes (kind : Byte) (seq cks : Word) (len : Half) (payload rest : Bytes)
    (h : payload.length = len.toNat) :
    decodePacket (frameBytes kind seq cks len payload ++ rest) =
      .ok (⟨kind, seq, cks, len, payload⟩, 11 + payload.length) := by
  simp [frameBytes, be32, be16, decodePacket, unbe16_be16, unbe32_be32, ← h, headerBytes]

theorem decodePacket_frameOf (p : Packet) (rest : Bytes) (h : p.WellFormed) :
    decodePacket (frameOf p ++ rest) = .ok (p, 11 + p.payload.length) := decodePacket_frameBytes _ _ _ _ _ _ h

/-- What decodes is well-formed, and its frame stands at the front of the bytes (R174). -/
theorem decodePacket_ok {b : Bytes} {p : Packet} {n : Nat} (h : decodePacket b = .ok (p, n)) :
    p.WellFormed ∧ n = 11 + p.payload.length ∧ b = frameOf p ++ b.drop n := by
  have hc := decodePacket_consumed h
  refine ⟨hc.2.2.2, hc.2.2.1, ?_⟩
  unfold decodePacket at h
  split at h
  · split at h
    · cases h
    · cases h
      simp only [frameOf, frameBytes, be32_unbe32, be16_unbe16]
      simp [headerBytes]
      rw [Nat.add_comm 11]; simp
  · cases h

@[simp] theorem frameOf_length (p : Packet) : (frameOf p).length = 11 + p.payload.length := by simp [frameOf]

@[simp] theorem framesOf_nil : framesOf [] = [] := rfl

theorem framesOf_cons (p : Packet) (ps : List Packet) : framesOf (p :: ps) = frameOf p ++ framesOf ps := by
  simp [framesOf]

/-- There are no more frames than bytes. -/
theorem length_le_framesOf (ps : List Packet) : ps.length ≤ (framesOf ps).length := by
  induction ps with
  | nil => simp
  | cons p ps ih => rw [framesOf_cons, List.length_append, List.length_cons, frameOf_length]; omega

/-- Every byte sequence is a run of whole frames and a rest that holds none (R179). -/
theorem exists_framesOf : ∀ (n : Nat) (b : Bytes), b.length ≤ n →
    ∃ ps rest, (∀ q ∈ ps, Packet.WellFormed q) ∧ b = framesOf ps ++ rest ∧ noWholeFrame rest
  | 0, b, h => ⟨[], b, by simp, by simp, by
      have : b = [] := List.length_eq_zero_iff.mp (by omega)
      subst this; intro p n; simp [decodePacket]⟩
  | n + 1, b, h => by
    by_cases hn : noWholeFrame b
    · exact ⟨[], b, by simp, by simp, hn⟩
    · unfold noWholeFrame at hn
      push Not at hn
      obtain ⟨p, m, hd⟩ := hn
      obtain ⟨hw, hm, hb⟩ := decodePacket_ok hd
      obtain ⟨ps, rest, h1, h2, h3⟩ := exists_framesOf n (b.drop m) (by simp; omega)
      exact ⟨p :: ps, rest, by simpa using ⟨hw, h1⟩, by rw [hb, h2, framesOf_cons, List.append_assoc], h3⟩

/-- `Deframe` takes the frame at the front (R179). -/
theorem Ctx.deframe_frameOf {c : Ctx} {p : Packet} {rest : Bytes} (h : p.WellFormed) (hb : c.rxbuf = frameOf p ++ rest) :
    c.deframe = some (p, { c with rxbuf := rest }.touch [.pk]) := by
  unfold Ctx.deframe
  rw [hb, decodePacket_frameOf p rest h, ← frameOf_length]
  simp

/-- The loop of AckRead ends where no whole frame is left (R200). -/
theorem Ctx.ackFrames_noWholeFrame (n : Nat) {c : Ctx} (h : noWholeFrame c.rxbuf) : Ctx.ackFrames n c = c := by
  cases n with
  | zero => rfl
  | succ n => rw [Ctx.ackFrames, Ctx.deframe_eq_none.mpr h]

/-- The loop of RxRead ends where no whole frame is left (R239). -/
theorem Ctx.rxFrames_noWholeFrame (P : Params) (key : Option Block) (n : Nat) {c : Ctx} (h : noWholeFrame c.rxbuf) :
    Ctx.rxFrames P key n c = .ok c := by
  cases n with
  | zero => rfl
  | succ n => rw [Ctx.rxFrames, Ctx.deframe_eq_none.mpr h]

/-- The loop of AckRead discards the frames before the first match (R199, R200). -/
theorem Ctx.ackFrames_framesOf : ∀ (ps : List Packet) (n : Nat) (c : Ctx) (rest : Bytes),
    (∀ q ∈ ps, q.WellFormed ∧ ¬(q.kind = 0x02#8 ∧ q.sequenceNumber = c.seqCtr)) → c.rxbuf = framesOf ps ++ rest →
    ∃ w, c.work.KeepsBut [.pk] w ∧
      Ctx.ackFrames (n + ps.length) c =
        Ctx.ackFrames n
          { c with rxbuf := rest, mismatchSeen := c.mismatchSeen || ps.any fun q => q.kind == 0x02#8, work := w }
  | [], n, c, rest, _, hb => ⟨c.work, .refl _ _, by simp at hb; subst hb; simp⟩
  | p :: ps, n, c, rest, hq, hb => by
    obtain ⟨hw, hm⟩ := hq p (by simp)
    have hb' : c.rxbuf = frameOf p ++ (framesOf ps ++ rest) := by rw [hb, framesOf_cons, List.append_assoc]
    have nm : ({ c with rxbuf := framesOf ps ++ rest }.touch [.pk]).isMatch p = false := by
      simp only [Ctx.isMatch, Ctx.touch_seqCtr, Bool.and_eq_false_imp, beq_iff_eq]
      intro h1; simp; intro h2; exact hm ⟨h1, h2⟩
    obtain ⟨w, k, e⟩ := Ctx.ackFrames_framesOf ps n (({ c with rxbuf := framesOf ps ++ rest }.touch [.pk]).discard p) rest
      (fun q hm => hq q (by simp [hm])) rfl
    refine ⟨w, Work.KeepsBut.trans (Work.touch_keepsBut [.pk] _) k (by simp) (by simp), ?_⟩
    rw [show n + (p :: ps).length = (n + ps.length) + 1 by simp; omega, Ctx.ackFrames, Ctx.deframe_frameOf hw hb']
    simp only [nm, Bool.false_eq_true, if_false, e]
    congr 1
    simp [Ctx.discard, Ctx.touch, Ctx.mismatchAfter, Bool.or_assoc, kindAck]

end Sys2Proof.Machine
end

