-- ==== Sys2Proof/Laws/Turns.lean ====
section
/-! SUPPORT. When the sequencer steps run, and what they then are: one lemma per way through each step, from what stands
in the context to the step taken; and when a turn makes of a context what a statement says. -/

namespace Sys2Proof.Machine

open Sys2Proof

/-! ### The sender -/

theorem Ctx.sendChunk_srcErr {P : Params} {key : Option Block} {c : Ctx} {ms : List ChunkMsg} (hs : c.txState = .fetch)
    (h : c.chunkIn = .srcErr :: ms) :
    c.sendChunk P key = .ok ({ c with chunkIn := ms }.fail .srcReadFailure) := by
  unfold Ctx.sendChunk
  rw [if_neg (not_not.mpr hs)]
  simp only [Ctx.chunkRead, h]

theorem Ctx.sendChunk_end {P : Params} {key : Option Block} {c : Ctx} {ms : List ChunkMsg} (hs : c.txState = .fetch)
    (h : c.chunkIn = .chunk [] :: ms) :
    c.sendChunk P key = .ok { { c with chunkIn := ms }.touch [.chunk] with txState := .done } := by
  unfold Ctx.sendChunk
  rw [if_neg (not_not.mpr hs)]
  simp only [Ctx.chunkRead, h, chunkBytes, List.length_nil]
  rfl

theorem Ctx.sendChunk_chunk {P : Params} {key : Option Block} {c : Ctx} {b : Bytes} {ms : List ChunkMsg}
    (hs : c.txState = .fetch) (h : c.chunkIn = .chunk b :: ms) (hb : b ≠ []) (hl : b.length ≤ 1024) :
    c.sendChunk P key = ({ c with chunkIn := ms }.touch [.chunk]).sendPlain P key b := by
  unfold Ctx.sendChunk
  rw [if_neg (not_not.mpr hs)]
  simp only [Ctx.chunkRead, h]
  rw [if_neg (show ¬ b.length > chunkBytes from Nat.not_lt.mpr hl), if_neg hb]

theorem Ctx.sendPlain_noKey {P : Params} {c : Ctx} {b : Bytes} :
    c.sendPlain P none b = .error (.refuses .keyNotLoaded) := rfl

theorem Ctx.sendPlain_rngErr {P : Params} {key : Block} {c : Ctx} {b : Bytes} {rs : List RngMsg}
    (h : c.rngIn = .rngErr :: rs) : c.sendPlain P (some key) b = .ok ({ c with rngIn := rs }.fail .rngFailure) := by
  simp only [Ctx.sendPlain, Ctx.rngDraw, h]

theorem Ctx.sendPlain_ok {P : Params} {key : Block} {c : Ctx} {b : Bytes} {iv : Block} {rs : List RngMsg}
    (h : c.rngIn = .ok iv :: rs) :
    c.sendPlain P (some key) b =
      ({ c with rngIn := rs }.touch [.cipher]).sendPayload P (sealBytes (blockEncOf P key) iv b) := by
  simp only [Ctx.sendPlain, Ctx.rngDraw, h]

theorem Ctx.ackRead_eof {P : Params} {c : Ctx} {ms : List RxMsg} (hs : c.txState = .awaitingAck)
    (h : c.rxIn = .eof :: ms) : c.ackRead P = .ok ({ c with rxIn := ms }.fail .endOfStream) := by
  unfold Ctx.ackRead
  rw [if_neg (not_not.mpr hs)]
  simp only [Ctx.rxNext, h]

theorem Ctx.ackRead_readErr {P : Params} {c : Ctx} {ms : List RxMsg} (hs : c.txState = .awaitingAck)
    (h : c.rxIn = .readErr :: ms) : c.ackRead P = .ok ({ c with rxIn := ms }.fail .readFailure) := by
  unfold Ctx.ackRead
  rw [if_neg (not_not.mpr hs)]
  simp only [Ctx.rxNext, h]

theorem Ctx.ackRead_read {P : Params} {c : Ctx} {b : Bytes} {ms : List RxMsg} (hs : c.txState = .awaitingAck)
    (h : c.rxIn = .read b :: ms) (hl : b.length ≤ P.rxBufBytes) :
    c.ackRead P = .ok (({ c with rxIn := ms }.touch [.rxRead]).ackBytes P b) := by
  unfold Ctx.ackRead
  rw [if_neg (not_not.mpr hs)]
  simp only [Ctx.rxNext, h]
  rw [if_neg (Nat.not_lt.mpr hl)]

/-! ### The receiver -/

theorem Ctx.rxRead_eof {P : Params} {key : Option Block} {c : Ctx} {ms : List RxMsg} (hs : c.rxState = .serving)
    (h : c.rxIn = .eof :: ms) :
    c.rxRead P key = .ok ({ c with rxIn := ms }.close P (evEos (c.residue P))) := by
  unfold Ctx.rxRead
  rw [if_neg (not_not.mpr hs)]
  simp only [Ctx.rxNext, h]

theorem Ctx.rxRead_readErr {P : Params} {key : Option Block} {c : Ctx} {ms : List RxMsg} (hs : c.rxState = .serving)
    (h : c.rxIn = .readErr :: ms) : c.rxRead P key = .ok ({ c with rxIn := ms }.close P evReadError) := by
  unfold Ctx.rxRead
  rw [if_neg (not_not.mpr hs)]
  simp only [Ctx.rxNext, h]

theorem Ctx.rxRead_read {P : Params} {key : Option Block} {c : Ctx} {b : Bytes} {ms : List RxMsg}
    (hs : c.rxState = .serving) (h : c.rxIn = .read b :: ms) (hl : b.length ≤ P.rxBufBytes) :
    c.rxRead P key = ({ c with rxIn := ms }.touch [.rxRead]).rxBytes P key b := by
  unfold Ctx.rxRead
  rw [if_neg (not_not.mpr hs)]
  simp only [Ctx.rxNext, h]
  rw [if_neg (Nat.not_lt.mpr hl)]

/-! ### A delivery -/

theorem Ctx.deliver_noKey {P : Params} {p : Packet} {c : Ctx} (h : P.autoDecrypt = true) :
    c.deliver P none p = .error (.refuses .keyNotLoaded) := by
  simp only [Ctx.deliver, h]; rfl

/-! ### Commands at the ports of a context -/

/-- A command that writes working registers and answers, at a context that is there. -/
theorem State.answer_answered {s : State} {c : Ctx} (regs : List WorkReg) (r : Response) (hc : s.ctx? s.cur = some c) :
    ∃ t, s.answer regs r = .next t ∧ State.Answered c r c.rngIn regs s t :=
  ⟨_, State.perform_ok hc rfl, rfl, State.setCtx_onlyCtx _ { s with started := true }, _,
    State.ctx?_setCtx_self (s := { s with started := true }) hc, rfl, rfl, Work.touch_keepsBut regs c.work⟩

/-- A command that answers and writes nothing else. -/
theorem State.reply_answered {s : State} {c : Ctx} (r : Response) (hc : s.ctx? s.cur = some c) :
    ∃ t, s.reply r = .next t ∧ State.Answered c r c.rngIn [] s t :=
  ⟨_, State.perform_ok hc rfl, rfl, State.setCtx_onlyCtx _ { s with started := true }, _,
    State.ctx?_setCtx_self (s := { s with started := true }) hc, rfl, rfl, .refl _ _⟩

/-! ### Turns -/

/-- A turn that is taken changes its context to what the step made of it, and nothing else. -/
theorem State.turn_became {k : Nat} {s : State} {c c' : Ctx} {f : Ctx → Turn} {v : Ctx.View} {i : Ctx.Inputs}
    {regs : List WorkReg} (hc : s.ctx? k = some c) (hf : f c = .ok c') (h : c.Became v i regs c') :
    ∃ t, s.turn k f = .next t ∧ State.CtxBecame k c v i regs s t :=
  ⟨_, State.turn_took hc hf, State.setCtx_onlyCtx c' s, c', State.ctx?_setCtx_self hc, h⟩

end Sys2Proof.Machine
end

