-- ==== Sys2Proof/Tests/Slice0.lean ====
section
/-! SUPPORT. The model's own tests: ill-formed terms, words and vectors written out from the spec, one step each on a small
state, and for every obligation with hypotheses a state and operands that meet them. Expected results are those of
spec/95_test_vectors.md or of the rule a test names, not of the model. -/

namespace Sys2Proof.Tests

open Sys2Proof Sys2Proof.Machine

/-! ### Helpers -/

/-- The `n` bytes of a number, the first the most significant: a way to write byte sequences as the spec prints them. -/
def hx (n w : Nat) : Bytes := (List.range n).map fun i => BitVec.ofNat 8 (w / 256 ^ (n - 1 - i))

/-- A block as the spec prints it. -/
def blk (w : Nat) : Block := blockOfBytes (hx 16 w)

/-- `KEY_T`. -/
def keyT : Block := blk 0x2b7e151628aed2a6abf7158809cf4f3c

/-- `IV_A`. -/
def ivA : Block := blk 0x000102030405060708090a0b0c0d0e0f

/-- `IV_B`. -/
def ivB : Block := blk 0x101112131415161718191a1b1c1d1e1f

/-- "The quick brown fox". -/
def fox : Bytes := hx 19 0x54686520717569636b2062726f776e20666f78

/-- " jumps". -/
def jumps : Bytes := hx 6 0x206a756d7073

/-- `F1` of program P1. -/
def f1 : Bytes := hx 46 0x01000000018cbc23a70023000102030405060708090a0b0c0d0e0f049602ece8185bd5b129559bf4d8824058caf4

/-- `F2` of program P1. -/
def f2 : Bytes := hx 33 0x01000000027e62d2e60016101112131415161718191a1b1c1d1e1fe82085db6330

/-- `F2` with byte 27 changed from e8 to e9. -/
def f2' : Bytes := hx 33 0x01000000027e62d2e60016101112131415161718191a1b1c1d1e1fe92085db6330

/-- An acknowledgment frame, written out from R88. -/
def ackOf (n : Nat) : Bytes := hx 11 (0x0200000000000000000000 + n * 256 ^ 6)

/-- Working registers of zeros. -/
def w0 : Work := ⟨0, blk 0, blk 0, 0, 0, 0, 0, [], [], [], [], 0, 0⟩

/-- A context in the reset state of R39. -/
def idle : Ctx :=
  { role := .none, txState := .idle, seqCtr := 1, ackTimer := 0, timerArmed := false, mismatchSeen := false, errClass := 0
    errCause := 0, errSeq := 0, rxbuf := [], rxState := .idle, work := w0, cmdIn := [], chunkIn := [], rngIn := []
    txAns := [], rxIn := [], rsp := [], txOut := [], pktOut := [], plainOut := [], evtOut := [] }

/-- A sender about to send chunk 1. -/
def fetching : Ctx := { idle with role := .sender, txState := .fetch }

/-- A sender that wrote `F1` and waits for its acknowledgment. -/
def waiting : Ctx :=
  { fetching with txState := .awaitingAck, ackTimer := 5, timerArmed := true, txOut := [⟨f1, .ok⟩] }

/-- A serving receiver. -/
def serving : Ctx := { idle with role := .receiver, rxState := .serving }

/-- Parameters of the tests: `RX_BUF_BYTES = 2048`, with the given framing. -/
def par (f : Framing) : Params :=
  { blockEnc := .aes128, rxFraming := f, rxBufBytes := 2048, tickHz := 1, autoDecrypt := true }

/-- A machine of these contexts under `KEY_T`, loaded, with reassembly, about to make these moves. -/
def st (cs : List Ctx) (moves : List Move := []) : State :=
  { key := keyT, params := par .reassemble, ctxs := cs, cur := 0, started := true, keyLoaded := true, sched := moves }

/-- The same with one read one frame. -/
def stPer (cs : List Ctx) (moves : List Move := []) : State := { st cs moves with params := par .perRead }

/-- What context `k` shows after an outcome. -/
def shown (o : Host.Outcome State Fault Refusal) (k : Nat := 0) : Option Ctx.View :=
  match o with
  | .next t => (t.ctx? k).map Ctx.view
  | _ => none

/-- The answers on RSP of context `k` after an outcome. -/
def answered (o : Host.Outcome State Fault Refusal) (k : Nat := 0) : Option (List Response) :=
  (shown o k).map (·.rsp)

/-- The refusal of an outcome. -/
def refusal (o : Host.Outcome State Fault Refusal) : Option Refusal :=
  match o with
  | .refused r => some r
  | _ => none

/-- The fault of an outcome. -/
def faulted (o : Host.Outcome State Fault Refusal) : Option Fault :=
  match o with
  | .fault r => some r
  | _ => none

/-! ### Ill-formed terms are refused (R21, R83) -/

theorem test_wf_data_length : (Instr.data 1 0 4 (hx 3 0x616263)).WellFormed = false := by decide
theorem test_wf_ackf_length : (Instr.ackf 1 0 1 []).WellFormed = false := by decide
theorem test_wf_unknown_length : (Instr.unknown 3 1 0 0 (hx 1 0)).WellFormed = false := by decide
theorem test_wf_unknown_kind_data : (Instr.unknown 1 1 0 0 []).WellFormed = false := by decide
theorem test_wf_unknown_kind_ack : (Instr.unknown 2 1 0 0 []).WellFormed = false := by decide
theorem test_wf_accepts : (Instr.unknown 3 1 0 1 (hx 1 0)).WellFormed = true ∧ (Instr.data 1 0 0 []).WellFormed = true := by
  decide

/-! ### Decoding: a message per row, written out from R80, R83, R91, R92 -/

/-- V4.2. -/
theorem test_decode_data : decode (.frame (hx 14 0x010000000135_2441c20003616263)) =
    .ok (.data 1 0x352441C2 3 [0x61, 0x62, 0x63], []) := by decide
/-- V4.5: three bytes are left. -/
theorem test_decode_ackf : decode (.frame (hx 14 0x02_00000003_00000000_0000_020000)) =
    .ok (.ackf 3 0 0 [], [0x02, 0x00, 0x00]) := by decide
/-- V4.3. -/
theorem test_decode_unknown : decode (.frame (hx 13 0x7f_deadbeef_01020304_0002_aabb)) =
    .ok (.unknown 0x7F 0xDEADBEEF 0x01020304 2 [0xAA, 0xBB], []) := by decide
theorem test_decode_crc32 : decode (.cmd ⟨0b0001, 7, [.bytes [0x61]]⟩) = .ok (.crc32 7 [0x61], []) := by decide
theorem test_decode_verify :
    decode (.cmd ⟨0b0010, 7, [.packet ⟨3, 0, 0, 0, []⟩]⟩) = .ok (.verify 7 ⟨3, 0, 0, 0, []⟩, []) := by decide
theorem test_decode_encrypt : decode (.cmd ⟨0b0011, 7, [.bytes []]⟩) = .ok (.encrypt 7 [], []) := by decide
theorem test_decode_decrypt : decode (.cmd ⟨0b0100, 7, [.bytes []]⟩) = .ok (.decrypt 7 [], []) := by decide
theorem test_decode_encode :
    decode (.cmd ⟨0b0101, 7, [.packet ⟨3, 0, 0, 0, []⟩]⟩) = .ok (.encode 7 ⟨3, 0, 0, 0, []⟩, []) := by decide
theorem test_decode_decode : decode (.cmd ⟨0b0110, 7, [.bytes [1]]⟩) = .ok (.decode 7 [1], []) := by decide
theorem test_decode_mkdata : decode (.cmd ⟨0b0111, 7, [.word 9, .bytes [1]]⟩) = .ok (.mkdata 7 9 [1], []) := by decide
theorem test_decode_mkack : decode (.cmd ⟨0b1000, 7, [.word 9]⟩) = .ok (.mkack 7 9, []) := by decide
theorem test_decode_send : decode (.cmd ⟨0b1001, 7, []⟩) = .ok (.send 7, []) := by decide
theorem test_decode_serve : decode (.cmd ⟨0b1010, 7, []⟩) = .ok (.serve 7, []) := by decide
theorem test_decode_reserved :
    decode (.cmd ⟨0b0000, 7, []⟩) = .ok (.reserved0 7 [], []) ∧ decode (.cmd ⟨0b1011, 7, []⟩) = .ok (.reservedB 7 [], []) ∧
    decode (.cmd ⟨0b1100, 7, []⟩) = .ok (.reservedC 7 [], []) ∧ decode (.cmd ⟨0b1101, 7, []⟩) = .ok (.reservedD 7 [], []) ∧
    decode (.cmd ⟨0b1110, 7, []⟩) = .ok (.reservedE 7 [], []) ∧ decode (.cmd ⟨0b1111, 7, []⟩) = .ok (.reservedF 7 [], []) := by
  decide
/-- Arguments of another operation are refused by name (log entry 21). -/
theorem test_decode_bad_arguments : decode (.cmd ⟨0b1000, 0, [.bytes []]⟩) = .error (.badArguments 0b1000) := by decide
/-- V4.4. -/
theorem test_decode_short : decode (.frame []) = .error (.framing .shortHeader) ∧
    decode (.frame (hx 10 0x02000000030000000000)) = .error (.framing .shortHeader) ∧
    decode (.frame (hx 13 0x01000000013524_41c200036162)) = .error (.framing .truncatedPayload) ∧
    decode (.frame (hx 11 0x01000000013524_41c20003)) = .error (.framing .truncatedPayload) := by decide
/-- The table word of R81 for V4.3, H = 0x7FDEADBEEF010203040002: 2 zero bytes of payload stand for its payload. -/
theorem test_table_word_frame : decodeTableWord 88 0x7FDEADBEEF010203040002 =
    some (.unknown 0x7F 0xDEADBEEF 0x01020304 2 [0, 0]) := by decide
theorem test_table_word_command : decodeTableWord 8 0x8 = some (.mkack 0 0) ∧ decodeTableWord 8 0x1F = none := by decide

/-! ### The CRC unit (V2.1 to V2.4) -/

theorem test_crc_vectors :
    crc32 [0x00] = 0xD202EF8D ∧ crc32 [0x01] = 0xA505DF1B ∧ crc32 [0x80] = 0x3FBA6CAD ∧ crc32 [0xFF] = 0xFF000000 ∧
    crc32 (hx 3 0x616263) = 0x352441C2 ∧ crc32 (hx 9 0x313233343536373839) = 0xCBF43926 ∧
    crc32 (hx 4 0) = 0x2144DF1C ∧ crc32 (hx 4 0xFFFFFFFF) = 0xFFFFFFFF ∧ crc32 (List.replicate 32 0) = 0x190A55AD ∧
    crc32 (List.replicate 32 0xFF) = 0xFF6CAB0B := by decide +kernel
theorem test_crc_sensitivity :
    crc32 (hx 3 0x616264) = 0xAB40D461 ∧ crc32 (hx 4 0x61626300) = 0xA75D6850 ∧ crc32 (hx 4 0x00616263) = 0xEB2147CC := by
  decide +kernel
theorem test_crc_table : crcTableAt 1 = 0x77073096 ∧ crcTableAt 128 = 0xEDB88320 ∧ crcTableAt 255 = 0x2D02EF8D := by decide
theorem test_exec_crc32 : answered (exec (.crc32 0 (hx 1 0x61)) (st [idle])) = some [.word 0xE8B7BE43] := by decide +kernel
theorem test_exec_verify :
    answered (exec (.verify 0 ⟨3, 0, 0x352441C2, 3, hx 3 0x616263⟩) (st [idle])) = some [.bool true] ∧
    answered (exec (.verify 0 ⟨2, 9, 1, 0, []⟩) (st [idle])) = some [.bool false] := by decide +kernel

/-! ### The cipher unit (V3.1 to V3.7) -/

/-- The affine map that R134 names, for a check of its table against the inverse in the field. -/
def affine (b : Byte) : Byte :=
  b ^^^ b.rotateLeft 1 ^^^ b.rotateLeft 2 ^^^ b.rotateLeft 3 ^^^ b.rotateLeft 4 ^^^ 0x63

/-- Multiplication in the field (R133), by the bits of the second factor, low bit first. -/
def gmul : Nat → Byte → Byte → Byte
  | 0, _, _ => 0
  | n + 1, a, b => (if b.getLsbD 0 then a else 0) ^^^ gmul n (xtime a) (b >>> 1)

/-- The inverse in the field, as the 254th power; of 0, 0. -/
def ginv (a : Byte) : Byte :=
  let sq := fun x => gmul 8 x x
  let a2 := sq a
  let a4 := sq a2
  let a8 := sq a4
  let a16 := sq a8
  let a32 := sq a16
  let a64 := sq a32
  let m := gmul 8
  m (m (m (m (m (m a2 a4) a8) a16) a32) a64) (sq a64)

theorem test_sbox_is_affine_of_inverse :
    ∀ n ∈ List.range 256, sbox (BitVec.ofNat 8 n) = affine (ginv (BitVec.ofNat 8 n)) := by decide +kernel
/-- V3.1, inside round 1. -/
theorem test_round_one :
    subBytes (blk 0x00102030405060708090a0b0c0d0e0f0) = blk 0x63cab7040953d051cd60e0e7ba70e18c ∧
    shiftRows (blk 0x63cab7040953d051cd60e0e7ba70e18c) = blk 0x6353e08c0960e104cd70b751bacad0e7 ∧
    mixColumns (blk 0x6353e08c0960e104cd70b751bacad0e7) = blk 0x5f72641557f5bc92f7be3b291db9f91a ∧
    mixColumns (blk 0xdb135345f20a225c01010101c6c6c6c6) = blk 0x8e4da1bc9fdc589d01010101c6c6c6c6 := by decide +kernel
/-- V3.2. -/
theorem test_round_keys : roundKeys keyT =
    [keyT, blk 0xa0fafe1788542cb123a339392a6c7605, blk 0xf2c295f27a96b9435935807a7359f67f,
     blk 0x3d80477d4716fe3e1e237e446d7a883b, blk 0xef44a541a8525b7fb671253bdb0bad00,
     blk 0xd4d1c6f87c839d87caf2b8bc11f915bc, blk 0x6d88a37a110b3efddbf98641ca0093fd,
     blk 0x4e54f70e5f5fc9f384a64fb24ea6dc4f, blk 0xead27321b58dbad2312bf5607f8d292f,
     blk 0xac7766f319fadc2128d12941575c006e, blk 0xd014f9a8c9ee2589e13f0cc8b6630ca6] := by decide +kernel
/-- V3.2, V3.3. -/
theorem test_block_enc :
    blockEnc keyT (blk 0x3243f6a8885a308d313198a2e0370734) = blk 0x3925841d02dc09fbdc118597196a0b32 ∧
    blockEnc keyT ivA = blk 0x50fe67cc996d32b6da0937e99bafec60 ∧ blockEnc keyT ivB = blk 0xc84af0b613435d5d9182801a9bd9320b := by
  decide +kernel
/-- V3.5: the payload of `F1`. -/
theorem test_exec_encrypt :
    answered (exec (.encrypt 0 fox) (st [{ idle with rngIn := [.ok ivA] }])) = some [.bytes (f1.drop 11)] := by decide +kernel
/-- V3.7 and the inverse of V3.5. -/
theorem test_exec_decrypt :
    answered (exec (.decrypt 0 (f1.drop 11)) (st [idle])) = some [.bytes fox] ∧
    answered (exec (.decrypt 0 (hx 15 0)) (st [idle])) = some [.err .shortCiphertext] ∧
    answered (exec (.decrypt 0 (hx 16 0x000102030405060708090a0b0c0d0e0f)) (st [idle])) = some [.bytes []] ∧
    answered (exec (.decrypt 0 (hx 17 0)) (st [idle])) = some [.bytes [0x7d]] := by decide +kernel
/-- V3.7: a wrong key is no error. -/
theorem test_wrong_key :
    answered (exec (.decrypt 0 (f1.drop 11)) { st [idle] with key := blk 0 }) =
      some [.bytes (hx 19 0x7e5c0d3554ceb7a92ebe13fde23e20c23bfd97)] := by decide +kernel

/-- R305, U5: a cipher operation before KEY is loaded. -/
theorem test_no_key :
    let s := { st [{ idle with rngIn := [.ok ivA] }] with keyLoaded := false }
    refusal (exec (.encrypt 0 fox) s) = some .keyNotLoaded ∧ refusal (exec (.decrypt 0 []) s) = some .keyNotLoaded ∧
    answered (exec (.crc32 0 (hx 1 0x61)) s) = some [.word 0xE8B7BE43] := by decide +kernel

/-! ### The codec (V4.1 to V4.7) -/

theorem test_exec_encode :
    answered (exec (.encode 0 ⟨0x7F, 0xDEADBEEF, 0x01020304, 2, [0xAA, 0xBB]⟩) (st [idle])) =
      some [.bytes (hx 13 0x7fdeadbeef010203040002aabb)] := by decide
/-- R39, R170: no register is written, nor a buffer. -/
theorem test_encode_writes_no_register :
    (match exec (.encode 0 ⟨2, 3, 0, 0, []⟩) (st [idle]) with
     | .next t => (t.ctx? 0).map (·.work)
     | _ => none) = some w0 := by decide
/-- D23: the length written is the payload's, whatever the record's field says. -/
theorem test_encode_ignores_length_field :
    answered (exec (.encode 0 ⟨2, 3, 0, 9, []⟩) (st [idle])) = some [.bytes (ackOf 3)] := by decide
theorem test_exec_decode :
    answered (exec (.decode 0 (hx 14 0x0200000003000000000000020000)) (st [idle])) =
      some [.decoded ⟨2, 3, 0, 0, []⟩ 11] ∧
    answered (exec (.decode 0 []) (st [idle])) = some [.err .shortHeader] := by decide
theorem test_exec_mkdata :
    answered (exec (.mkdata 0 1 (hx 3 0x616263)) (st [idle])) = some [.packet ⟨1, 1, 0x352441C2, 3, hx 3 0x616263⟩] := by
  decide +kernel
theorem test_exec_mkack :
    answered (exec (.mkack 0 0xFFFFFFFF) (st [idle])) = some [.packet ⟨2, 0xFFFFFFFF, 0, 0, []⟩] := by decide
theorem test_ack_frame : ackFrame 3 = hx 11 0x0200000003000000000000 := by decide
/-- V4.7. -/
theorem test_deframe :
    (Ctx.deframe { idle with rxbuf := hx 7 0x02000000010000 }).isNone = true ∧
    (Ctx.deframe { idle with rxbuf := hx 13 0x02000000010000000000000200 }).map (fun q => (q.1, q.2.rxbuf)) =
      some (⟨2, 1, 0, 0, []⟩, [0x02, 0x00]) := by decide

/-! ### Starts, refusals, faults -/

theorem test_exec_send :
    (shown (exec (.send 1) (st [serving, idle])) 1).map (fun v => (v.role, v.txState, v.seqCtr)) =
      some (.sender, .fetch, 1) ∧
    answered (exec (.send 0) (st [serving])) = some [.errRefused] := by decide
/-- R52, R90: SEND of context 0 on CMD of context 1 is answered on RSP of context 1. -/
theorem test_send_from_another_port :
    let o := exec (.send 0) { st [idle, idle] with cur := 1 }
    (shown o 0).map (fun v => (v.txState, v.rsp)) = some (.fetch, []) ∧ answered o 1 = some [.started] := by decide
theorem test_exec_serve :
    (shown (exec (.serve 0) (st [idle]))).map (fun v => (v.role, v.rxState)) = some (.receiver, .serving) ∧
    answered (exec (.serve 0) (st [fetching])) = some [.errRefused] := by decide
theorem test_no_such_context : faulted (exec (.send 1) (st [idle])) = some .noSuchContext := by decide
theorem test_exec_reserved : refusal (exec (.reserved0 0 []) (st [idle])) = some (.reservedCommand 0x0) ∧
    refusal (exec (.reservedB 0 []) (st [idle])) = some (.reservedCommand 0xB) ∧
    refusal (exec (.reservedC 0 []) (st [idle])) = some (.reservedCommand 0xC) ∧
    refusal (exec (.reservedD 0 []) (st [idle])) = some (.reservedCommand 0xD) ∧
    refusal (exec (.reservedE 0 []) (st [idle])) = some (.reservedCommand 0xE) ∧
    refusal (exec (.reservedF 0 []) (st [idle])) = some (.reservedCommand 0xF) := by decide

/-! ### The sender's steps (V5.1 to V5.3, P1, P3) -/

/-- V5.1: `F1` is written and the wait begins. -/
theorem test_send_chunk :
    (shown (runMove (.sendChunk 0)
      (st [{ fetching with chunkIn := [.chunk fox], rngIn := [.ok ivA], txAns := [.ok] }]))).map
        (fun v => (v.txOut, v.txState, v.seqCtr, v.mismatchSeen, v.timerArmed)) =
      some ([⟨f1, .ok⟩], .awaitingAck, 1, false, true) := by decide +kernel
/-- V5.1: the end of the source, and a failure; R305: no key. -/
theorem test_send_chunk_ends :
    (shown (runMove (.sendChunk 0) (st [{ fetching with chunkIn := [.chunk []] }]))).map (·.txState) = some .done ∧
    refusal (runMove (.sendChunk 0) { st [{ fetching with chunkIn := [.chunk fox] }] with keyLoaded := false }) =
      some .keyNotLoaded ∧
    (shown (runMove (.sendChunk 0) (st [{ fetching with chunkIn := [.srcErr] }]))).map
      (fun v => (v.txState, v.errClass, v.errCause, v.errSeq, v.evtOut)) =
      some (.failed, 6, 1, 1, [⟨10, 0x61, 1, 0⟩]) := by decide
/-- What a sender that waits for acknowledgment 2 shows after a read. -/
def acked (f : Bytes) : Option (TxState × Bool × Bool × Bytes) :=
  (shown (runMove (.ackRead 0) (st [{ waiting with seqCtr := 2, rxIn := [.read f] }]))).map
    (fun v => (v.txState, v.mismatchSeen, v.timerArmed, v.rxbuf))

/-- V5.2: acknowledgments of the awaited number, checksum and payload not looked at, and of another; a Data frame. -/
theorem test_ack_read :
    [ackOf 2, hx 11 0x0200000002ffffffff0000, hx 14 0x020000000235_2441c20003616263, ackOf 1, ackOf 3,
      hx 11 0x0100000002000000000000, hx 5 0x0200000002, ackOf 1 ++ ackOf 2].map acked =
    [some (.acked, false, false, []), some (.acked, false, false, []), some (.acked, false, false, []),
      some (.awaitingAck, true, true, []), some (.awaitingAck, true, true, []), some (.awaitingAck, false, true, []),
      some (.awaitingAck, false, true, hx 5 0x0200000002), some (.acked, true, false, [])] := by decide
/-- V5.2: the failures while waiting. -/
theorem test_ack_read_failures :
    let after := fun (s : State) => (shown (runMove (.ackRead 0) s)).map (fun v => (v.txState, v.errClass, v.errCause))
    after (stPer [{ waiting with rxIn := [.read (hx 5 0x0200000002)] }]) = some (.failed, 1, 1) ∧
    after (st [{ waiting with rxIn := [.eof] }]) = some (.failed, 4, 4) ∧
    after (st [{ waiting with rxIn := [.readErr] }]) = some (.failed, 4, 1) := by decide
/-- What a context shows after a timeout. -/
def timedOut (c : Ctx) : Option (TxState × Word × List Event) :=
  (shown (runMove (.ackTimeout 0) (st [c]))).map (fun v => (v.txState, v.errSeq, v.evtOut))

/-- V5.3, P3. -/
theorem test_ack_timeout :
    [{ waiting with ackTimer := 0 }, { waiting with ackTimer := 0, mismatchSeen := true }].map timedOut =
    [some (.failed, 1, [⟨10, 0x43, 1, 0⟩]), some (.failed, 1, [⟨10, 0x52, 1, 0⟩])] := by decide
/-- V5.3, R209. -/
theorem test_next_chunk :
    (shown (runMove (.nextChunk 0) (st [{ waiting with txState := .acked, seqCtr := 2 }]))).map (fun v => (v.txState, v.seqCtr)) =
      some (.fetch, 3) ∧
    refusal (runMove (.nextChunk 0) (st [{ waiting with txState := .acked, seqCtr := 0xFFFFFFFF }])) = some .seqOverflow := by
  decide

/-! ### Frames at a receiver (V5.4), through the frame rows -/

/-- What the receiver shows after the row's instruction. -/
def served (i : Instr) : Option (List Event × List Bytes × List Plain) :=
  (shown (exec i (st [{ serving with txAns := [.ok] }]))).map (fun v => (v.evtOut, v.txOut.map TxRecord.frame, v.plainOut))

/-- `F1`; and the three bytes "xyz" with a good checksum, which are no ciphertext. -/
theorem test_exec_data :
    served (.data 1 0x8CBC23A7 35 (f1.drop 11)) = some ([⟨1, 0, 1, 35⟩], [ackOf 1], [⟨1, fox⟩]) ∧
    served (.data 4 0xEB8EBA67 3 (hx 3 0x78797a)) = some ([⟨1, 0, 4, 3⟩, ⟨7, 0, 4, 3⟩], [ackOf 4], []) := by decide +kernel
/-- `F2` corrupted: the kind is not looked at. -/
theorem test_exec_data_corrupted :
    served (.data 2 0x7E62D2E6 22 (f2'.drop 11)) = some ([⟨3, 1, 2, 22⟩], [], []) := by decide +kernel
theorem test_exec_ackf : served (.ackf 9 0 0 []) = some ([⟨4, 0, 9, 0⟩], [], []) := by decide
theorem test_exec_unknown :
    served (.unknown 3 7 0xB63CFBCD 4 (hx 4 0x01020304)) = some ([⟨5, 3, 7, 4⟩], [], []) ∧
    served (.unknown 3 7 0 4 (hx 4 0x01020304)) = some ([⟨3, 3, 7, 4⟩], [], []) := by decide +kernel

/-! ### One read of a receiver (P2, P4) -/

/-- P2, line 2: `F1` and the first ten bytes of another frame. -/
theorem test_rx_read_partial :
    (shown (runMove (.rxRead 0)
      (st [{ serving with rxIn := [.read (f1 ++ hx 10 0x0300000007b63cfbcd00)], txAns := [.ok] }]))).map
        (fun v => (v.rxbuf.length, v.evtOut, v.txOut.length)) = some (10, [⟨1, 0, 1, 35⟩], 1) := by decide +kernel
/-- P2, line 3: the rest of it, and `F2` corrupted. -/
theorem test_rx_read_rest :
    (shown (runMove (.rxRead 0)
      (st [{ serving with rxbuf := hx 10 0x0300000007b63cfbcd00, rxIn := [.read (hx 5 0x0401020304 ++ f2')] }]))).map
        (fun v => (v.rxbuf, v.evtOut, v.txOut.length)) = some ([], [⟨5, 3, 7, 4⟩, ⟨3, 1, 2, 22⟩], 0) := by decide +kernel
/-- P4, lines 2 to 4: the bytes after the first frame of a read are dropped, and two halves of a frame are two failures. -/
theorem test_rx_read_per_read :
    let after := fun (b : Bytes) =>
      (shown (runMove (.rxRead 0) (stPer [{ serving with rxIn := [.read b], txAns := [.ok, .ok] }]))).map (fun v => (v.evtOut, v.txOut.length))
    after (f2 ++ ackOf 5) = some ([⟨1, 0, 2, 22⟩], 1) ∧ after (f1.take 20) = some ([⟨2, 2, 20, 0⟩], 0) ∧
    after (f1.drop 20) = some ([⟨2, 2, 26, 0⟩], 0) := by decide +kernel
/-- P2, line 6; P4, line 6; R241. -/
theorem test_rx_read_ends :
    let after := fun (m : RxMsg) =>
      (shown (runMove (.rxRead 0) (st [{ serving with rxbuf := [1, 2], rxIn := [m] }]))).map (fun v => (v.evtOut, v.rxbuf, v.rxState))
    after .eof = some ([⟨8, 0, 2, 0⟩], [], .closed) ∧ after .readErr = some ([⟨9, 0, 0, 0⟩], [], .closed) := by decide

/-! ### The step, reset, key load, and where the host places an instruction -/

theorem test_step_command :
    answered (step (st [idle, { idle with cmdIn := [⟨0x8, 0, [.word 3]⟩] }] [.host 1])) 1 = some [.packet ⟨2, 3, 0, 0, []⟩] := by
  decide
/-- R24, R52: an ENCRYPT that waits at context 0 holds back no command of context 1. -/
theorem test_ports_are_independent :
    (match step (st [{ idle with cmdIn := [⟨0x3, 0, [.bytes fox]⟩] }, { idle with cmdIn := [⟨0x9, 1, []⟩] }] [.host 0, .host 1]) with
     | .next t => shown (step t) 1
     | _ => none).map (fun v : Ctx.View => (v.txState, v.rsp)) = some (.fetch, [.started]) := by decide
theorem test_step_without_move : answered (step (st [idle])) = some [] := by decide
theorem test_reset_context :
    (shown (runMove (.resetCtx 0 true) (st [{ waiting with txState := .failed, errClass := 4 }]))).map
      (fun v => (v.role, v.txState, v.seqCtr, v.errClass)) = some (.none, .idle, 1, 0) := by decide
/-- R301: what the connection still holds is discarded with the reset, or left. -/
theorem test_reset_discards :
    [true, false].map (fun d => (Ctx.disconnect d { waiting with rxIn := [.eof] }).rxIn) = [[], [.eof]] := by decide
/-- R42, R322: KEY is write-once, before the first operation. -/
theorem test_key_load : refusal (runMove (.loadKey ivA) (st [idle])) = some .keyLocked ∧
    refusal (runMove (.loadKey ivA) { st [idle] with started := false }) = some .keyLocked ∧
    (match runMove (.loadKey ivA) { st [idle] with started := false, keyLoaded := false } with
     | .next t => decide (t.key = ivA) && t.keyLoaded
     | _ => false) = true := by decide
theorem test_tick : (shown (runMove .tick (st [waiting]))).map (·.ackTimer) = some 4 := by decide
/-- A table word placed right after reset is the instruction the next step runs: MKACK of 0, DECRYPT of nothing. -/
theorem test_place_command : answered (step (State.reset.withFetchWord 8 0x8)) = some [.packet ⟨2, 0, 0, 0, []⟩] ∧
    answered (step (State.reset.withFetchWord 8 0x4)) = some [.err .shortCiphertext] := by
  decide
/-- An acknowledgment frame of number 9 placed right after reset: context 0 reads exactly it. -/
theorem test_place_frame :
    (shown (step (State.reset.withFetchWord 88 0x0200000009000000000000))).map (fun v => (v.evtOut, v.rxbuf)) =
      some ([⟨4, 0, 9, 0⟩], []) := by decide

/-! ### Witnesses: states and operands that meet the hypotheses of each obligation that has any, a clause at a time -/

/-- The packet of MKACK, written out from R177. -/
def ackPacket (seq : Word) : Packet := ⟨2, seq, 0, 0, []⟩

/-- A few bytes hold no whole frame (R174). -/
theorem short_is_no_frame (b : Byte) : noWholeFrame [b] := by
  intro p n
  simp [decodePacket]

theorem witness_DecodeEncodeEveryInstruction :
    (Instr.data 1 0x352441C2 3 [0x61, 0x62, 0x63]).WellFormed = true ∧
    encode (.data 1 0x352441C2 3 [0x61, 0x62, 0x63]) = .frame (hx 14 0x010000000135_2441c20003616263) ∧
    (Instr.unknown 0xFF 0 0 0 []).WellFormed = true := by decide
theorem witness_DecodedMessagesEncodeBack :
    decode (.frame (hx 14 0x02_00000003_00000000_0000_020000)) = .ok (.ackf 3 0 0 [], [2, 0, 0]) ∧
    decode (.cmd ⟨0x9, 2, []⟩) = .ok (.send 2, []) := by decide
theorem witness_PacketRoundTrip :
    (⟨1, 1, 0x352441C2, 3, [0x61, 0x62, 0x63]⟩ : Packet).WellFormed ∧ (ackPacket 0).WellFormed ∧
    decodePacket (ackOf 3 ++ [7]) = .ok (ackPacket 3, 11) := by decide
theorem witness_EncodeIsInjective : (ackPacket 1).WellFormed ∧ (ackPacket 2).WellFormed ∧ ackPacket 1 ≠ ackPacket 2 := by decide
theorem witness_DecodeFailsExactlyOnShortInput :
    encodePacket (ackPacket 3) = .ok (ackOf 3) ∧ 10 < (ackOf 3).length ∧ 0 < (ackOf 3).length := by decide
theorem witness_OneChangedByteIsDetected :
    (⟨1, 1, 0x352441C2, 3, hx 3 0x616263⟩ : Packet).checksum = crc32 (hx 3 0x616263) ∧ 2 < (hx 3 0x616263).length ∧
    (0x64 : Byte) ≠ (hx 3 0x616263).getD 2 0 := by decide +kernel
theorem witness_CrcDifferenceIsRemainder :
    (hx 3 0x616263).length = (hx 3 0x616264).length ∧ (hx 4 1).length ≤ 4 ∧ ∃ x ∈ hx 4 1, x ≠ 0 := by decide
theorem witness_KeyExpansion : (4 ≤ 4 ∧ 4 < 44 ∧ 4 % 4 = 0) ∧ (4 ≤ 43 ∧ 43 < 44 ∧ 43 % 4 ≠ 0) := by decide
theorem witness_BlockCipherRounds : (par .reassemble).blockEnc = .aes128 := by decide
theorem witness_DecryptUndoesEncrypt :
    (st [{ idle with rngIn := [.ok ivA] }]).ctx? 0 = some { idle with rngIn := [.ok ivA] } ∧
    (st [{ idle with rngIn := [.ok ivA] }]).keyLoaded = true ∧ { idle with rngIn := [.ok ivA] }.rngIn = .ok ivA :: [] ∧
    (stPer [idle]).key = (st []).key ∧ (stPer [idle]).params.blockEnc = (st []).params.blockEnc ∧
    (stPer [idle]).keyLoaded = true ∧ (stPer [idle]).ctx? (stPer [idle]).cur = some idle := by decide
theorem witness_DistinctVectorsDistinctResults : ivA ≠ ivB := by decide
theorem witness_EncryptAnswers :
    (st [{ idle with rngIn := [.ok ivA] }]).ctx? 0 = some { idle with rngIn := [.ok ivA] } ∧ (st []).keyLoaded = true ∧
    { idle with rngIn := [.ok ivA] }.rngIn = .ok ivA :: [] ∧ { idle with rngIn := [.rngErr] }.rngIn = .rngErr :: [] ∧
    idle.rngIn = [] ∧ { st [idle] with keyLoaded := false }.keyLoaded = false := by decide
/-- The context of every command of the units, at whose ports it is performed. -/
theorem witness_Crc32Answers : (st [idle]).ctx? (st [idle]).cur = some idle := by decide
theorem witness_VerifyAnswers : (st [idle]).ctx? (st [idle]).cur = some idle := by decide
theorem witness_MkackAnswers : (st [idle]).ctx? (st [idle]).cur = some idle := by decide
theorem witness_DecryptAnswers :
    (st [idle]).ctx? 0 = some idle ∧ (st [idle]).keyLoaded = true ∧ (hx 15 0).length < 16 ∧ 16 ≤ (hx 16 0).length ∧
    { st [idle] with keyLoaded := false }.keyLoaded = false := by decide
theorem witness_EncodeAnswers :
    (st [idle]).ctx? 0 = some idle ∧ 65535 < (⟨1, 0, 0, 0, List.replicate 65536 0⟩ : Packet).payload.length ∧
    (⟨1, 0, 0, 0, List.replicate 65535 0⟩ : Packet).payload.length ≤ 65535 :=
  ⟨rfl, by simp only [List.length_replicate]; omega⟩
theorem witness_DecodeAnswers :
    (st [idle]).ctx? 0 = some idle ∧ (hx 10 0).length < 11 ∧ (11 ≤ (hx 11 1).length ∧ (hx 11 1).length < 11 + (unbe16 ((hx 11 1).getD 9 0) ((hx 11 1).getD 10 0)).toNat) ∧
    11 + (unbe16 ((hx 11 0).getD 9 0) ((hx 11 0).getD 10 0)).toNat ≤ (hx 11 0).length := by decide
theorem witness_MkdataAnswers :
    (st [idle]).ctx? 0 = some idle ∧ 65535 < (List.replicate 65536 (0 : Byte)).length ∧
    (List.replicate 65535 (0 : Byte)).length ≤ 65535 := ⟨rfl, by simp only [List.length_replicate]; omega⟩
theorem witness_SendStarts :
    ((st [idle, serving]).ctx? 1 = some serving ∧ { st [idle, serving] with cur := 1 }.ctx? 1 = some serving) ∧
    ((st [idle]).ctx? 0 = some idle ∧ idle.role = .none ∧ idle.txState = .idle) ∧
    ((st [waiting]).ctx? 0 = some waiting ∧ ¬(waiting.role = .none ∧ waiting.txState = .idle)) := by decide
theorem witness_ServeStarts :
    ((st [idle, waiting]).ctx? 1 = some waiting ∧ { st [idle, waiting] with cur := 1 }.ctx? 1 = some waiting) ∧
    ((st [idle]).ctx? 0 = some idle ∧ idle.role = .none ∧ idle.rxState = .idle) ∧
    ((st [serving]).ctx? 0 = some serving ∧ ¬(serving.role = .none ∧ serving.rxState = .idle)) := by decide
theorem witness_UnknownContextStops : (st [idle, idle]).ctxs.length ≤ 2 ∧ (st []).ctxs.length ≤ 0 := by decide
theorem witness_DataFrameAtReceiver :
    (st [{ serving with txAns := [.ok] }]).ctx? 0 = some { serving with txAns := [.ok] } ∧
    { serving with txAns := [.ok] }.rxState = .serving ∧ crc32 (hx 3 0x616263) = 0x352441C2 ∧
    { serving with txAns := [.ok] }.txAns = .ok :: [] ∧ { serving with txAns := [.writeErr 3] }.txAns = .writeErr 3 :: [] ∧
    serving.txAns = [] ∧ (st []).params.autoDecrypt = true ∧ (st []).keyLoaded = true ∧
    { st [] with keyLoaded := false }.keyLoaded = false ∧ { serving with txAns := [.ok] }.txAns ≠ [] := by decide +kernel
theorem witness_AckFrameAtReceiver :
    (st [serving]).ctx? 0 = some serving ∧ serving.rxState = .serving ∧ crc32 [] = 0 := by decide
theorem witness_UnknownFrameAtReceiver :
    (st [serving]).ctx? 0 = some serving ∧ serving.rxState = .serving ∧ crc32 [] = 0 ∧ (0 : Byte) ≠ 1 ∧ (0 : Byte) ≠ 2 ∧
    (3 : Byte) ≠ 1 ∧ (3 : Byte) ≠ 2 := by decide
theorem witness_BadChecksumAtReceiver :
    (st [serving]).ctx? 0 = some serving ∧ serving.rxState = .serving ∧ crc32 [] ≠ 1 := by decide
theorem witness_FramesAtWaitingSender :
    (st [waiting]).ctx? 0 = some waiting ∧ waiting.rxState ≠ .serving ∧ waiting.txState = .awaitingAck ∧
    (1 : Word) = waiting.seqCtr ∧ (2 : Word) ≠ waiting.seqCtr ∧ (3 : Byte) ≠ 2 := by decide
theorem witness_FramesElsewhereAreLeft :
    ((st [idle]).ctx? 0 = some idle ∧ idle.rxState ≠ .serving ∧ idle.txState ≠ .awaitingAck) ∧
    ((st [fetching]).ctx? 0 = some fetching ∧ fetching.rxState ≠ .serving ∧ fetching.txState ≠ .awaitingAck) := by decide
/-- A sender with a chunk of one byte, a chunk of 1024 bytes, and each answer of its ports. -/
theorem witness_SendChunkOutcomes :
    let c := { fetching with chunkIn := [.chunk [0x61]], rngIn := [.ok ivA], txAns := [.ok] }
    (st [c]).ctx? 0 = some c ∧ c.txState = .fetch ∧ c.chunkIn = .chunk [0x61] :: [] ∧ [(0x61 : Byte)] ≠ [] ∧
    [(0x61 : Byte)].length ≤ 1024 ∧ (List.replicate 1024 (0 : Byte)).length ≤ 1024 ∧ c.rngIn = .ok ivA :: [] ∧
    c.txAns = .ok :: [] ∧ { c with txAns := [.writeErr 0] }.txAns = .writeErr 0 :: [] ∧
    { c with rngIn := [.rngErr] }.rngIn = .rngErr :: [] ∧ { c with chunkIn := [.srcErr] }.chunkIn = .srcErr :: [] ∧
    { c with chunkIn := [.chunk []] }.chunkIn = .chunk [] :: [] ∧ (st [c]).keyLoaded = true ∧
    { st [c] with keyLoaded := false }.keyLoaded = false := by
  simp only [List.length_replicate]
  decide
theorem witness_AckReadPerRead :
    let c := { waiting with rxIn := [.read (ackOf 1)] }
    (stPer [c]).ctx? 0 = some c ∧ c.txState = .awaitingAck ∧ (stPer [c]).params.rxFraming = .perRead ∧
    (ackOf 1).length ≤ (stPer [c]).params.rxBufBytes ∧ decodePacket (ackOf 1) = .ok (ackPacket 1, 11) ∧
    decodePacket (ackOf 2) = .ok (ackPacket 2, 11) ∧ (ackPacket 1).sequenceNumber = c.seqCtr ∧
    (ackPacket 2).sequenceNumber ≠ c.seqCtr ∧ decodePacket [] = .error .shortHeader ∧
    decodePacket (hx 11 1) = .error .truncatedPayload ∧ decodePacket (hx 11 0) = .ok (⟨0, 0, 0, 0, []⟩, 11) := by decide
theorem witness_AckReadReassemble :
    let c := { waiting with seqCtr := 2, rxbuf := [0x02], rxIn := [.read ((ackOf 1 ++ ackOf 2 ++ [0x03]).drop 1)] }
    (st [c]).ctx? 0 = some c ∧ c.txState = .awaitingAck ∧ (st [c]).params.rxFraming = .reassemble ∧
    ((ackOf 1 ++ ackOf 2 ++ [0x03]).drop 1).length ≤ (st [c]).params.rxBufBytes ∧
    (∀ q ∈ [ackPacket 1], q.WellFormed ∧ ¬(q.kind = 0x02#8 ∧ q.sequenceNumber = c.seqCtr)) ∧
    (ackPacket 2).WellFormed ∧ (ackPacket 2).kind = 0x02#8 ∧ (ackPacket 2).sequenceNumber = c.seqCtr ∧
    c.rxbuf ++ (ackOf 1 ++ ackOf 2 ++ [0x03]).drop 1 = framesOf [ackPacket 1] ++ frameOf (ackPacket 2) ++ [0x03] ∧
    [0x02] ++ (ackOf 1 ++ [0x03]).drop 1 = framesOf [ackPacket 1] ++ [0x03] ∧ noWholeFrame [0x03] :=
  ⟨rfl, rfl, rfl, by decide, by decide, by decide, by decide, by decide, by decide, by decide, short_is_no_frame _⟩
theorem witness_AckTimeoutOutcomes :
    (st [waiting]).ctx? 0 = some waiting ∧ waiting.txState = .awaitingAck ∧ waiting.ackTimer ≠ 0 ∧
    { waiting with ackTimer := 0 }.timerArmed = true ∧ { waiting with ackTimer := 0 }.ackTimer = 0 := by decide
theorem witness_NextChunkOutcomes :
    let c := { waiting with txState := .acked, seqCtr := 0xFFFFFFFE }
    (st [c]).ctx? 0 = some c ∧ c.txState = .acked ∧ c.seqCtr.toNat < 0xFFFFFFFF ∧
    { c with seqCtr := 0xFFFFFFFF }.seqCtr = 0xFFFFFFFF#32 := by decide
theorem witness_RxReadPerRead :
    let c := { serving with rxIn := [.read (ackOf 1)] }
    (stPer [c]).ctx? 0 = some c ∧ c.rxState = .serving ∧ (stPer [c]).params.rxFraming = .perRead ∧
    (ackOf 1).length ≤ (stPer [c]).params.rxBufBytes ∧ decodePacket (ackOf 1) = .ok (ackPacket 1, 11) ∧
    ({ c with rxIn := [] }.handlePacket (stPer [c]).params (stPer [c]).cipherKey (ackPacket 1)).isOk = true ∧
    decodePacket [] = .error .shortHeader ∧ decodePacket (hx 11 1) = .error .truncatedPayload := by decide
theorem witness_RxReadReassemble :
    let c := { serving with rxbuf := [0x02], rxIn := [.read ((ackOf 1 ++ ackOf 2 ++ [0x03]).drop 1)] }
    (st [c]).ctx? 0 = some c ∧ c.rxState = .serving ∧ (st [c]).params.rxFraming = .reassemble ∧
    ((ackOf 1 ++ ackOf 2 ++ [0x03]).drop 1).length ≤ (st [c]).params.rxBufBytes ∧
    (∀ q ∈ [ackPacket 1, ackPacket 2], q.WellFormed) ∧
    c.rxbuf ++ (ackOf 1 ++ ackOf 2 ++ [0x03]).drop 1 = framesOf [ackPacket 1, ackPacket 2] ++ [0x03] ∧ noWholeFrame [0x03] ∧
    ([ackPacket 1, ackPacket 2].foldlM (fun (x : Ctx) p => x.handlePacket (st [c]).params (st [c]).cipherKey p)
      { c with rxIn := [], rxbuf := [0x03] }).isOk = true :=
  ⟨rfl, rfl, rfl, by decide, by decide, by decide, short_is_no_frame _, by decide⟩
theorem witness_SplitReadsMakeNoDifference :
    let c := { serving with rxIn := [.read ((ackOf 1).take 5), .read ((ackOf 1).drop 5)] }
    let s := st [c]
    let whole := s.setCtx 0 { c with rxIn := [.read ((ackOf 1).take 5 ++ (ackOf 1).drop 5)] }
    s.params.rxFraming = .reassemble ∧ s.ctx? 0 = some c ∧ c.rxState = .serving ∧
    ((ackOf 1).take 5 ++ (ackOf 1).drop 5).length ≤ s.params.rxBufBytes ∧
    ∃ t c', runMove (.rxRead 0) whole = .next t ∧ t.ctx? 0 = some c' ∧ c'.rxIn = [] :=
  ⟨rfl, rfl, rfl, by decide, _, _, rfl, rfl, rfl⟩
/-- All three ends of `ChunkIsDeliveredAndAcknowledged`: a sender that writes `F1`, a receiver that reads it, and the sender
as it then waits, reading the acknowledgment. -/
theorem witness_ChunkIsDeliveredAndAcknowledged :
    (let c := { fetching with chunkIn := [.chunk fox], rngIn := [.ok ivA], txAns := [.ok] }
     (st [c]).ctx? 0 = some c ∧ c.txState = .fetch ∧ c.rxbuf = [] ∧ fox ≠ [] ∧ fox.length ≤ 1024 ∧
     1051 ≤ (st [c]).params.rxBufBytes ∧ shown (runMove (.sendChunk 0) (st [c])) = some waiting.view) ∧
    (let c := { serving with rxIn := [.read f1], txAns := [.ok] }
     (st [c]).ctx? 0 = some c ∧ (st [c]).key = keyT ∧ (st [c]).keyLoaded = true ∧ (st [c]).params.blockEnc = .aes128 ∧ (st [c]).params.autoDecrypt = true ∧
     1051 ≤ (st [c]).params.rxBufBytes ∧ c.rxState = .serving ∧ c.rxbuf = []) ∧
    (let c := { waiting with rxIn := [.read (ackOf 1)] }
     (st [c]).ctx? 0 = some c ∧ c.view = waiting.view) := by decide +kernel
theorem witness_TickCountsArmedTimers :
    (st [waiting]).ctx? 0 = some waiting ∧ waiting.timerArmed = true ∧ 0 < waiting.ackTimer ∧ idle.timerArmed = false ∧
    { waiting with ackTimer := 0 }.ackTimer = 0 := by decide
theorem witness_TimerIsNotReloaded :
    ∃ t c', step (st [waiting] [.tick]) = .next t ∧ (st [waiting] [.tick]).ctx? 0 = some waiting ∧ t.ctx? 0 = some c' ∧
      waiting.txState = .awaitingAck ∧ c'.txState = .awaitingAck := ⟨_, _, rfl, rfl, rfl, rfl, rfl⟩
theorem witness_StepRunsCommand :
    let c := { idle with cmdIn := [⟨0x8, 0, [.word 3]⟩] }
    let s := st [c] [.host 0]
    s.sched = .host 0 :: [] ∧ s.ctx? 0 = some c ∧ c.cmdIn = ⟨0x8, 0, [.word 3]⟩ :: [] ∧
    decode (.cmd ⟨0x8, 0, [.word 3]⟩) = .ok (.mkack 0 3, []) := by decide
theorem witness_StepRunsFrameAtReceiver :
    let c := { serving with rxbuf := [0x02], rxIn := [.read ((ackOf 9 ++ [0x03]).drop 1)] }
    let s := st [c] [.rxRead 0]
    s.sched = .rxRead 0 :: [] ∧ s.ctx? 0 = some c ∧ c.rxState = .serving ∧
    (∀ seq len payload, Instr.ackf 9 0 0 [] = .data seq (crc32 payload) len payload → c.txAns ≠ []) ∧
    ((ackOf 9 ++ [0x03]).drop 1).length ≤ s.params.rxBufBytes ∧
    decode (.frame (ackOf 9 ++ [0x03])) = .ok (.ackf 9 0 0 [], [0x03]) ∧ s.params.rxFraming = .reassemble ∧
    c.rxbuf ++ (ackOf 9 ++ [0x03]).drop 1 = ackOf 9 ++ [0x03] ∧ noWholeFrame [0x03] ∧
    (stPer [{ serving with rxIn := [.read (ackOf 9 ++ [0x03])] }]).params.rxFraming = .perRead ∧
    { serving with txAns := [.ok] }.txAns ≠ [] :=
  ⟨rfl, rfl, rfl, fun _ _ _ h => (nomatch h), by decide, by decide, rfl, by decide, short_is_no_frame _, rfl, by decide⟩
theorem witness_StepRunsFrameAtSender :
    let c := { waiting with rxbuf := [0x02], rxIn := [.read ((ackOf 1 ++ [0x03]).drop 1)] }
    let s := st [c] [.ackRead 0]
    s.sched = .ackRead 0 :: [] ∧ s.ctx? 0 = some c ∧ c.txState = .awaitingAck ∧ c.rxState ≠ .serving ∧
    ((ackOf 1 ++ [0x03]).drop 1).length ≤ s.params.rxBufBytes ∧
    decode (.frame (ackOf 1 ++ [0x03])) = .ok (.ackf 1 0 0 [], [0x03]) ∧ s.params.rxFraming = .reassemble ∧
    c.rxbuf ++ (ackOf 1 ++ [0x03]).drop 1 = ackOf 1 ++ [0x03] ∧ noWholeFrame [0x03] ∧
    (stPer [{ waiting with rxIn := [.read (ackOf 1 ++ [0x03])] }]).params.rxFraming = .perRead :=
  ⟨rfl, rfl, rfl, by decide, by decide, by decide, rfl, by decide, short_is_no_frame _, rfl⟩

/-- The value of `tx_state` of context 0 before a step and after it. -/
def txChange (s : State) : Option (TxState × TxState) :=
  match s.ctx? 0, shown (step s) with
  | some c, some v => some (c.txState, v.txState)
  | _, _ => none

/-- The value of `rx_state` of context 0 before a step and after it. -/
def rxChange (s : State) : Option (RxState × RxState) :=
  match s.ctx? 0, shown (step s) with
  | some c, some v => some (c.rxState, v.rxState)
  | _, _ => none

/-- A step along every row of R210, and a reset. -/
theorem witness_TxTransitions :
    [st [{ idle with cmdIn := [⟨0x9, 0, []⟩] }] [.host 0],
     st [{ fetching with chunkIn := [.chunk []] }] [.sendChunk 0],
     st [{ fetching with chunkIn := [.chunk [0x61]], rngIn := [.ok ivA], txAns := [.ok] }] [.sendChunk 0],
     st [{ fetching with chunkIn := [.chunk [0x61]], rngIn := [.ok ivA], txAns := [.writeErr 4] }] [.sendChunk 0],
     st [{ fetching with chunkIn := [.chunk [0x61]], rngIn := [.rngErr] }] [.sendChunk 0],
     st [{ fetching with chunkIn := [.srcErr] }] [.sendChunk 0],
     st [{ waiting with rxIn := [.read (ackOf 1)] }] [.ackRead 0],
     st [{ waiting with rxIn := [.eof] }] [.ackRead 0],
     stPer [{ waiting with rxIn := [.read []] }] [.ackRead 0],
     st [{ waiting with ackTimer := 0 }] [.ackTimeout 0],
     st [{ waiting with txState := .acked }] [.nextChunk 0],
     st [waiting] [.resetCtx 0 false]].map txChange =
    [some (.idle, .fetch), some (.fetch, .done), some (.fetch, .awaitingAck), some (.fetch, .failed), some (.fetch, .failed),
     some (.fetch, .failed), some (.awaitingAck, .acked), some (.awaitingAck, .failed), some (.awaitingAck, .failed),
     some (.awaitingAck, .failed), some (.acked, .fetch), some (.awaitingAck, .idle)] := by decide +kernel
/-- A step along every row of R244, and a reset. -/
theorem witness_RxTransitions :
    [st [{ idle with cmdIn := [⟨0xA, 0, []⟩] }] [.host 0], st [{ serving with rxIn := [.eof] }] [.rxRead 0],
     st [{ serving with rxIn := [.readErr] }] [.rxRead 0], st [serving] [.resetAll]].map rxChange =
    [some (.idle, .serving), some (.serving, .closed), some (.serving, .closed), some (.serving, .idle)] := by decide

/-- A read of `F1` and two bytes, with one answer; and one read one frame, of bytes that are no frame, without an answer. -/
theorem witness_RxTransitions_read :
    (let c := { serving with rxIn := [.read (f1 ++ [0x03])], txAns := [.ok] }
     (st [c]).ctx? 0 = some c ∧ c.rxState = .serving ∧ c.rxIn = .read (f1 ++ [0x03]) :: [] ∧
     (f1 ++ [0x03]).length ≤ (st [c]).params.rxBufBytes ∧
     c.shows (st [c]).params (f1 ++ [0x03]) [⟨1, 1, 0x8CBC23A7, 35, f1.drop 11⟩] ∧
     acksFor [⟨1, 1, 0x8CBC23A7, 35, f1.drop 11⟩] ≤ c.txAns.length ∧ (st [c]).keyLoaded = true) ∧
    (let c := { serving with rxIn := [.read [0x03]] }
     (stPer [c]).ctx? 0 = some c ∧ c.rxIn = .read [0x03] :: [] ∧ c.shows (stPer [c]).params [0x03] [] ∧
     acksFor [] ≤ c.txAns.length) :=
  ⟨⟨rfl, rfl, rfl, by decide, ⟨by decide, [0x03], by decide, short_is_no_frame _⟩, by decide +kernel, rfl⟩, rfl, rfl, rfl,
    by decide⟩

/-- A sender that has ended. -/
def done : Ctx := { fetching with txState := .done, txOut := [] }

theorem legal_done (P : Params) : done.Legal P := by
  constructor <;> simp [done, fetching, idle]
theorem legal_waiting : waiting.Legal (par .reassemble) := by
  constructor <;> simp [waiting, fetching, idle, par, Params.ackTimeoutTicks]
theorem legal_serving (P : Params) : serving.Legal P := by
  constructor <;> simp [serving, idle]
  intro _ p n
  simp [decodePacket]

theorem witness_EndedContextsStayEnded :
    (st [done] [.offerRx 0 .eof]).Legal ∧ done.ended = true ∧ (Move.offerRx 0 .eof).resets 0 = false ∧
    (∃ t c', step (st [done] [.offerRx 0 .eof]) = .next t ∧ t.ctx? 0 = some c') ∧
    (∀ rest, (st [done] [.offerRx 0 .eof]).sched ≠ .host 0 :: rest) ∧
    (∃ t c', step (st [done] [.host 0]) = .next t ∧ t.ctx? 0 = some c') ∧ (st [done] [.host 0]).sched = .host 0 :: [] := by
  refine ⟨fun c hc => ?_, rfl, rfl, ⟨_, _, rfl, rfl⟩, fun _ h => (nomatch h), ⟨_, _, rfl, rfl⟩, rfl⟩
  obtain rfl : c = done := by simpa [st] using hc
  exact legal_done _
theorem witness_ConfigurationIsConstant :
    (∃ t, step { st [idle] [.loadKey ivA] with started := false, keyLoaded := false } = .next t ∧ t.key ≠ keyT) ∧
    ∃ t, step (st [idle] [.tick]) = .next t ∧ (st [idle] [.tick]).keyLoaded = true ∧
      (st [idle] [.tick]).sched.head? ≠ some .resetAll :=
  ⟨⟨_, rfl, by decide⟩, _, rfl, rfl, by decide⟩
theorem witness_ConfigurationIsConstant_load :
    ({ st [idle] with started := false, keyLoaded := false }.started = false ∧
      { st [idle] with started := false, keyLoaded := false }.keyLoaded = false ∧
      ∀ c ∈ (st [idle]).ctxs, c.role = .none ∧ c.txState = .idle ∧ c.rxState = .idle) ∧
    (st [idle]).started = true ∧ (st [idle]).keyLoaded = true ∧ ¬∀ c ∈ (st [serving]).ctxs, c.role = .none ∧ c.txState = .idle ∧ c.rxState = .idle := by
  decide
theorem witness_ContextsAreIndependent :
    let c := { fetching with chunkIn := [.chunk []] }
    (Move.sendChunk 0).turnOf = some 0 ∧ (st [c, idle]).key = (st [c, waiting]).key ∧
    (st [c, idle]).params = (st [c, waiting]).params ∧ (st [c, idle]).keyLoaded = (st [c, waiting]).keyLoaded ∧
    (st [c, idle]).ctx? 0 = (st [c, waiting]).ctx? 0 ∧
    ∃ t, runMove (.sendChunk 0) (st [c, idle]) = .next t := ⟨rfl, rfl, rfl, rfl, rfl, _, rfl⟩
/-- MKACK at context 0, beside an idle and beside a waiting context. -/
theorem witness_ContextsAreIndependent_command :
    let c := { idle with cmdIn := [⟨0x8, 0, [.word 3]⟩] }
    (∀ j, ¬(st [c, idle]).commands (.host 0) (.send j) ∧ ¬(st [c, idle]).commands (.host 0) (.serve j)) ∧
    (st [c, idle]).key = (st [c, waiting]).key ∧ (st [c, idle]).params = (st [c, waiting]).params ∧
    (st [c, idle]).keyLoaded = (st [c, waiting]).keyLoaded ∧ (st [c, idle]).ctx? 0 = (st [c, waiting]).ctx? 0 ∧
    ∃ t, runMove (.host 0) (st [c, idle]) = .next t := by
  refine ⟨fun j => ⟨?_, ?_⟩, rfl, rfl, rfl, rfl, _, rfl⟩ <;>
  · rintro ⟨k, c, x, xs, hk, hc, hx, hd⟩
    cases hk; cases hc; cases hx; cases hd
theorem witness_StepsOfContextsCommute :
    let s := st [{ fetching with chunkIn := [.chunk []] }, { serving with rxIn := [.eof] }]
    (Move.sendChunk 0).turnOf = some 0 ∧ (Move.rxRead 1).turnOf = some 1 ∧ (0 : Nat) ≠ 1 ∧
    ∃ s1 s2, runMove (.sendChunk 0) s = .next s1 ∧ runMove (.rxRead 1) s1 = .next s2 :=
  ⟨rfl, rfl, by decide, _, _, rfl, rfl⟩
theorem witness_ResetValues : State.reset.ctxs.length = 3 := by decide
theorem witness_ResetRestores : (st [waiting, serving]).ctx? 1 = some serving := by decide

/-- A sender that wrote `F1` and a serving receiver, legal and keeping stop and wait, and a step they take. -/
theorem witness_LegalIsKept :
    (st [waiting, serving] [.tick]).Legal ∧ ∃ t, step (st [waiting, serving] [.tick]) = .next t := by
  refine ⟨fun c hc => ?_, _, rfl⟩
  obtain rfl | rfl : c = waiting ∨ c = serving := by simpa [st] using hc
  · exact legal_waiting
  · exact legal_serving _
theorem f1_is_data_frame : isDataFrame 1 f1 := ⟨f1.drop 11, by decide +kernel⟩
theorem only_record {i : Nat} {q r : TxRecord} (h : [q][i]? = some r) : i = 0 ∧ r = q := by
  cases i with
  | zero => exact ⟨rfl, by simpa using h.symm⟩
  | succ n => simp at h
theorem stopAndWait_waiting_serving : (st [waiting, serving] [.tick]).StopAndWait := by
  intro c hc
  obtain rfl | rfl : c = waiting ∨ c = serving := by simpa [st] using hc
  · constructor <;> simp [waiting, fetching, idle, Ctx.sentCount]
    · intro i r hr
      obtain ⟨rfl, rfl⟩ := only_record hr
      exact f1_is_data_frame
    · intro i r hr
      obtain ⟨rfl, rfl⟩ := only_record hr
      rfl
  · constructor <;> simp [serving, idle]
theorem witness_StopAndWaitIsKept :
    (st [waiting, serving] [.tick]).Legal ∧ (st [waiting, serving] [.tick]).StopAndWait ∧
      ∃ t, step (st [waiting, serving] [.tick]) = .next t :=
  ⟨witness_LegalIsKept.1, stopAndWait_waiting_serving, witness_LegalIsKept.2⟩

end Sys2Proof.Tests
end

section
/-! SUPPORT. What the sender's steps make of a context, in the registers and the record of its writes: the facts that the two
invariants of a context share. -/

namespace Sys2Proof.Machine

open Sys2Proof

/-! ### The length of what a sender writes (R147, R154, R194) -/

/-- `n` blocks of `CfbEnc` give a byte for each byte of the plaintext, up to 16 for each block (R147). -/
theorem cfbEncBlocks_length (enc : Block → Block) :
    ∀ (n : Nat) (fb : Block) (p : Bytes), (cfbEncBlocks enc n fb p).length = min p.length (16 * n)
  | 0, fb, p => by simp [cfbEncBlocks]
  | n + 1, fb, p => by
    simp only [cfbEncBlocks, blockBytes, List.length_append, xorBytes_length, blockToBytes_length,
      cfbEncBlocks_length enc n, List.length_take, List.length_drop]
    omega

/-- `CfbEnc` keeps the length (R147). -/
@[simp] theorem cfbEnc_length (enc : Block → Block) (iv : Block) (p : Bytes) : (cfbEnc enc iv p).length = p.length := by
  rw [cfbEnc, cfbEncBlocks_length, blockCount, blockBytes]
  omega

/-- `ENCRYPT` returns the initialization vector and the ciphertext (R150). -/
@[simp] theorem sealBytes_length (enc : Block → Block) (iv : Block) (p : Bytes) :
    (sealBytes enc iv p).length = 16 + p.length := by
  simp [sealBytes]

/-! ### Causes (R208) -/

theorem decodePacket_error_mem_senderCauses {b : Bytes} {e : FramingError} (h : decodePacket b = .error e) :
    framingErr e ∈ senderCauses .perRead := by
  unfold decodePacket at h
  split at h
  · split at h
    · cases h; simp [senderCauses, framingErr]
    · cases h
  · cases h; simp [senderCauses, framingErr]

theorem Ctx.timeoutCause_mem_senderCauses (c : Ctx) (f : Framing) : c.timeoutCause ∈ senderCauses f := by
  unfold Ctx.timeoutCause
  split <;> simp [senderCauses]

/-! ### A sender's steps, in the view of the context -/

/-- A context of the same view, but for its answers and the record of its writes, has the same registers. -/
theorem Ctx.SameRegs.of_view {c c' : Ctx} {r : List Response} {o : List TxRecord}
    (h : c'.view = { c.view with rsp := r, txOut := o }) : c.SameRegs c' where
  role := congrArg Ctx.View.role h
  txState := congrArg Ctx.View.txState h
  seqCtr := congrArg Ctx.View.seqCtr h
  ackTimer := congrArg Ctx.View.ackTimer h
  timerArmed := congrArg Ctx.View.timerArmed h
  mismatchSeen := congrArg Ctx.View.mismatchSeen h
  errClass := congrArg Ctx.View.errClass h
  errCause := congrArg Ctx.View.errCause h
  errSeq := congrArg Ctx.View.errSeq h
  rxState := congrArg Ctx.View.rxState h

/-- The context entered `Failed` with a cause of R208, having written nothing. -/
def Ctx.Failed (P : Params) (c c' : Ctx) : Prop :=
  ∃ c1 : Ctx, ∃ e ∈ senderCauses P.rxFraming, c' = c1.fail e ∧ c1.view = c.view

/-- The context wrote the frame of the chunk in flight, and waits for its acknowledgment if the connection took it, or else
has failed (R192, R194, R207). -/
def Ctx.Wrote (P : Params) (c c' : Ctx) : Prop :=
  ∃ (c1 : Ctx) (f : Bytes) (a : TxAnswer), isDataFrame c.seqCtr.toNat f ∧
    c1.view = { c.view with txOut := c.txOut ++ [⟨f, a⟩] } ∧
    (a = .ok ∧ c' = c1.awaitAck P ∨ c' = c1.fail .writeFailure)

/-- The last stages of SendChunk write one Data frame (R192, R194). -/
theorem Ctx.sendPayload_wrote {P : Params} {payload : Bytes} {c c' : Ctx} (h17 : 17 ≤ payload.length)
    (h1040 : payload.length ≤ 1040) (h : c.sendPayload P payload = .ok c') : c.Wrote P c' := by
  have hframe : isDataFrame c.seqCtr.toNat
      (frameBytes kindData c.seqCtr (crc32 payload) (lenField payload.length) payload) :=
    ⟨payload, h17, h1040, by rw [BitVec.ofNat_toNat, BitVec.setWidth_eq]⟩
  rw [Ctx.sendPayload_eq (by omega)] at h
  split at h
  · cases h
  · rename_i n c1 hw
    obtain ⟨as, -, rfl⟩ := Ctx.txWrite_eq_some.mp hw
    cases h
    exact ⟨_, _, _, hframe, rfl, .inr rfl⟩
  · rename_i c1 hw
    obtain ⟨as, -, rfl⟩ := Ctx.txWrite_eq_some.mp hw
    cases h
    exact ⟨_, _, _, hframe, rfl, .inl ⟨rfl, rfl⟩⟩

/-- SendChunk fails, ends the transfer, or writes a frame (R192, R195, R210). -/
theorem Ctx.sendChunk_cases {P : Params} {key : Option Block} {c c' : Ctx} (h : c.sendChunk P key = .ok c') :
    c.txState = .fetch ∧
      (c.Failed P c' ∨ (∃ c1 : Ctx, c1.view = c.view ∧ c' = { c1 with txState := .done }) ∨ c.Wrote P c') := by
  obtain ⟨hs, hcases⟩ := Ctx.sendChunk_took h
  refine ⟨hs, ?_⟩
  rcases hcases with ⟨ms, -, rfl⟩ | ⟨ms, -, rfl⟩ | ⟨k, b, ms, rs, -, -, -, -, -, rfl⟩ |
    ⟨k, b, ms, iv, rs, -, -, hb, hl, -, hw⟩
  · exact .inl ⟨_, .srcReadFailure, by simp [senderCauses], rfl, rfl⟩
  · exact .inr (.inl ⟨{ c with chunkIn := ms }.touch [.chunk], rfl, rfl⟩)
  · exact .inl ⟨_, .rngFailure, by simp [senderCauses], rfl, rfl⟩
  · have hpos := List.length_pos_iff.mpr hb
    have hlen := sealBytes_length (blockEncOf P k) iv b
    have hwrote := Ctx.sendPayload_wrote (by omega) (by omega) hw
    exact .inr (.inr hwrote)

/-- AckRead fails, or accepts, or waits on (R197, R200, R202, R203). -/
theorem Ctx.ackRead_cases {P : Params} {c c' : Ctx} (h : c.ackRead P = .ok c') :
    c.txState = .awaitingAck ∧ (c.Failed P c' ∨
      ∃ c1 : Ctx, c1.view = c.view ∧ c1.AckLoop c' ∧ (P.rxFraming = .perRead → c'.rxbuf = c1.rxbuf)) := by
  obtain ⟨hs, hcases⟩ := Ctx.ackRead_took h
  refine ⟨hs, ?_⟩
  rcases hcases with ⟨ms, -, rfl⟩ | ⟨ms, -, rfl⟩ | ⟨b, ms, -, -, rfl⟩
  · exact .inl ⟨_, .endOfStream, by simp [senderCauses], rfl, rfl⟩
  · exact .inl ⟨_, .readFailure, by simp [senderCauses], rfl, rfl⟩
  · rcases Ctx.ackBytes_cases P b ({ c with rxIn := ms }.touch [.rxRead]) with ⟨hf, e, he, heq⟩ | ⟨hl, hb⟩
    · exact .inl ⟨_, framingErr e, hf ▸ decodePacket_error_mem_senderCauses he, heq, rfl⟩
    · exact .inr ⟨{ c with rxIn := ms }.touch [.rxRead], rfl, hl, hb⟩

/-- AckTimeout fails the transfer (R201). -/
theorem Ctx.ackTimeout_failed {P : Params} {c c' : Ctx} (h : c.ackTimeout = .ok c') :
    c.txState = .awaitingAck ∧ c.Failed P c' := by
  obtain ⟨hs, -, rfl⟩ := Ctx.ackTimeout_took h
  exact ⟨hs, c, _, c.timeoutCause_mem_senderCauses _, rfl, rfl⟩

/-- NextChunk counts up without wrapping (R204, R209). -/
theorem Ctx.seqCtr_succ_toNat {c : Ctx} (h : c.seqCtr ≠ 0xFFFFFFFF#32) :
    (c.seqCtr + 1#32).toNat = c.seqCtr.toNat + 1 := by
  bv_omega

/-! ### A receiver's steps -/

/-- RxRead closes the receiver, or leaves every register but `rxbuf` and writes acknowledgments (R232, R239 to R242). -/
theorem Ctx.rxRead_cases {P : Params} {key : Option Block} {c c' : Ctx} (h : c.rxRead P key = .ok c') :
    c.rxState = .serving ∧
      ((∃ (c1 : Ctx) (e : Event), c1.view = c.view ∧ c' = c1.close P e) ∨
       (c.SameRegs c' ∧ c.WroteAcks c' ∧ (P.rxFraming = .perRead → c'.rxbuf = c.rxbuf) ∧
          (P.rxFraming = .reassemble → noWholeFrame c'.rxbuf))) := by
  obtain ⟨hs, hcases⟩ := Ctx.rxRead_took h
  refine ⟨hs, ?_⟩
  rcases hcases with ⟨ms, -, rfl⟩ | ⟨ms, -, rfl⟩ | ⟨b, ms, -, -, hb⟩
  · exact .inl ⟨{ c with rxIn := ms }, _, rfl, rfl⟩
  · exact .inl ⟨{ c with rxIn := ms }, _, rfl, rfl⟩
  · obtain ⟨hregs, hacks, hper, hwait⟩ := Ctx.rxBytes_keeps hb
    exact .inr ⟨.after hregs (.of_view rfl), hacks, hper, hwait⟩

/-- A frame at a context is handled by a serving receiver or matched by a waiting sender (R198, R199, R234). -/
theorem Ctx.receive_cases {P : Params} {key : Option Block} {p : Packet} {c c' : Ctx} (h : c.receive P key p = .ok c') :
    (c.rxState = .serving ∧ c.SameRegs c' ∧ c.WroteAcks c' ∧ c'.rxbuf = c.rxbuf) ∨
      (c.txState = .awaitingAck ∧ c.AckLoop c' ∧ c'.rxbuf = c.rxbuf) := by
  unfold Ctx.receive at h
  split at h
  · rename_i hs
    obtain ⟨hregs, hbuf, hacks⟩ := Ctx.handlePacket_keeps h
    exact .inl ⟨hs, hregs, hacks, hbuf⟩
  · split at h
    · rename_i hs
      cases h
      exact .inr ⟨hs, Ctx.ackPacket_keeps p c⟩
    · cases h

end Sys2Proof.Machine
end

section
/-! SUPPORT. Every change of a context and every reset keeps it legal. -/

namespace Sys2Proof.Machine

open Sys2Proof

variable {P : Params} {key : Option Block} {c c' : Ctx}

/-- Outside `Idle` a sender sequencer has the role Sender, and leaves the receiver's in `Idle` (R24). -/
theorem Ctx.Legal.of_tx_active (h : c.Legal P) (ht : c.txState ≠ .idle) : c.role = .sender ∧ c.rxState = .idle := by
  have hr := h.senderRole.mp ht
  exact ⟨hr, not_not.mp fun hx => nomatch hr.symm.trans (h.receiverRole.mp hx)⟩

/-- Outside `Idle` a receiver sequencer has the role Receiver, and leaves the sender's in `Idle` (R24). -/
theorem Ctx.Legal.of_rx_active (h : c.Legal P) (hx : c.rxState ≠ .idle) : c.role = .receiver ∧ c.txState = .idle := by
  have hr := h.receiverRole.mp hx
  exact ⟨hr, not_not.mp fun ht => nomatch hr.symm.trans (h.senderRole.mp ht)⟩

/-- A context without a role has both sequencers in `Idle` (R24). -/
theorem Ctx.Legal.of_role_none (h : c.Legal P) (hr : c.role = .none) : c.txState = .idle ∧ c.rxState = .idle :=
  ⟨not_not.mp fun ht => (nomatch hr.symm.trans (h.senderRole.mp ht)),
   not_not.mp fun hx => nomatch hr.symm.trans (h.receiverRole.mp hx)⟩

/-- Outside `AwaitingAck` the timer is disarmed (R285, R287). -/
theorem Ctx.Legal.disarmed (h : c.Legal P) (ht : c.txState ≠ .awaitingAck) : c.timerArmed = false :=
  Bool.eq_false_iff.mpr fun ha => ht (h.timer.mp ha)

/-- With the same registers, a context is legal when its `rxbuf` holds what it may. -/
theorem Ctx.Legal.of_sameRegs (h : c.Legal P) (hs : c.SameRegs c')
    (hwait : P.rxFraming = .reassemble → c.rxState = .serving → noWholeFrame c'.rxbuf)
    (hper : P.rxFraming = .perRead → c'.rxbuf = []) (hclosed : c.rxState = .closed → c'.rxbuf = []) : c'.Legal P where
  senderRole := by rw [hs.txState, hs.role]; exact h.senderRole
  receiverRole := by rw [hs.rxState, hs.role]; exact h.receiverRole
  timer := by rw [hs.timerArmed, hs.txState]; exact h.timer
  timerBound := hs.ackTimer ▸ h.timerBound
  noError := by rw [hs.txState, hs.errClass, hs.errCause, hs.errSeq]; exact h.noError
  error := by rw [hs.txState, hs.errClass, hs.errCause, hs.errSeq, hs.seqCtr]; exact h.error
  seqPositive := hs.seqCtr ▸ h.seqPositive
  waitingBytes := hs.rxState ▸ hwait
  perReadEmpty := hper
  closedEmpty := hs.rxState ▸ hclosed

theorem Ctx.Legal.of_sameRegs_rxbuf (h : c.Legal P) (hs : c.SameRegs c') (hb : c'.rxbuf = c.rxbuf) : c'.Legal P :=
  h.of_sameRegs hs (hb ▸ h.waitingBytes) (hb ▸ h.perReadEmpty) (hb ▸ h.closedEmpty)

/-- Answers and the record of the writes play no part in a context's legality. -/
theorem Ctx.Legal.of_view {r : List Response} {o : List TxRecord} (h : c.Legal P)
    (hv : c'.view = { c.view with rsp := r, txOut := o }) : c'.Legal P :=
  h.of_sameRegs_rxbuf (.of_view hv) (congrArg Ctx.View.rxbuf hv)

/-! ### A sender's changes -/

theorem Ctx.Legal.startSender (h : c.Legal P) (hr : c.role = .none) : c.startSender.Legal P := by
  obtain ⟨-, hx⟩ := h.of_role_none hr
  constructor <;> simp [hx, h.timerBound, seqFirst]

/-- `Fail` with a cause of R208 leads to a legal `Failed` (R206). -/
theorem Ctx.Legal.fail (h : c.Legal P) (ht : c.txState ≠ .idle) {e : ErrCode} (he : e ∈ senderCauses P.rxFraming) :
    (c.fail e).Legal P := by
  obtain ⟨hr, hx⟩ := h.of_tx_active ht
  constructor <;> simp [hr, hx, h.timerBound, h.seqPositive]
  case error => exact ⟨e, he, rfl, rfl⟩
  case perReadEmpty => exact h.perReadEmpty

theorem Ctx.Legal.failed (h : c.Legal P) (ht : c.txState ≠ .idle) (hf : c.Failed P c') : c'.Legal P := by
  obtain ⟨c1, e, he, rfl, hv⟩ := hf
  exact (h.of_view hv).fail ((Ctx.SameRegs.of_view hv).txState ▸ ht) he

/-- The end of the transfer (R195). -/
theorem Ctx.Legal.finish (h : c.Legal P) (ht : c.txState = .fetch) : Ctx.Legal P { c with txState := .done } := by
  obtain ⟨hr, hx⟩ := h.of_tx_active (by simp [ht])
  have harmed := h.disarmed (by simp [ht])
  obtain ⟨h1, h2, h3⟩ := h.noError (by simp [ht])
  constructor <;> simp [hr, hx, harmed, h1, h2, h3, h.timerBound, h.seqPositive]
  case perReadEmpty => exact h.perReadEmpty

/-- The wait for an acknowledgment begins with the timer at its start (R285). -/
theorem Ctx.Legal.awaitAck (h : c.Legal P) (ht : c.txState = .fetch) : (c.awaitAck P).Legal P := by
  obtain ⟨hr, hx⟩ := h.of_tx_active (by simp [ht])
  obtain ⟨h1, h2, h3⟩ := h.noError (by simp [ht])
  constructor <;> simp [hr, hx, h1, h2, h3, h.seqPositive]
  case perReadEmpty => exact h.perReadEmpty

theorem Ctx.Legal.wrote (h : c.Legal P) (ht : c.txState = .fetch) (hw : c.Wrote P c') : c'.Legal P := by
  obtain ⟨c1, f, a, -, hv, ⟨-, rfl⟩ | rfl⟩ := hw
  · exact (h.of_view hv).awaitAck ((Ctx.SameRegs.of_view hv).txState.trans ht)
  · exact (h.of_view hv).fail (by simp [(Ctx.SameRegs.of_view hv).txState, ht]) (by simp [senderCauses])

theorem Ctx.Legal.sendChunk (h : c.Legal P) (hs : c.sendChunk P key = .ok c') : c'.Legal P := by
  obtain ⟨ht, hf | ⟨c1, hv, rfl⟩ | hw⟩ := Ctx.sendChunk_cases hs
  · exact h.failed (by simp [ht]) hf
  · exact (h.of_view hv).finish ((Ctx.SameRegs.of_view hv).txState.trans ht)
  · exact h.wrote ht hw

/-- A waiting sender that accepts or waits on stays legal (R198, R199). -/
theorem Ctx.Legal.ackLoop (h : c.Legal P) (ht : c.txState = .awaitingAck) (hl : c.AckLoop c')
    (hb : P.rxFraming = .perRead → c'.rxbuf = c.rxbuf) : c'.Legal P := by
  obtain ⟨hr, hx⟩ := h.of_tx_active (by simp [ht])
  obtain ⟨h1, h2, h3⟩ := h.noError (by simp [ht])
  have hends : (c'.txState = .acked ∧ c'.timerArmed = false) ∨ (c'.txState = .awaitingAck ∧ c'.timerArmed = true) := by
    rw [← ht, ← h.timer.mpr ht]; exact hl.ends
  have htx : c'.txState ≠ .idle ∧ c'.txState ≠ .failed ∧ (c'.timerArmed = true ↔ c'.txState = .awaitingAck) := by
    rcases hends with ⟨e1, e2⟩ | ⟨e1, e2⟩ <;> simp [e1, e2]
  obtain ⟨hactive, hfailed, htimer⟩ := htx
  exact
    { senderRole := by simp [hactive, hl.role, hr]
      receiverRole := by simp [hl.rxState, hl.role, hr, hx]
      timer := htimer
      timerBound := hl.ackTimer ▸ h.timerBound
      noError := by simp [hl.errClass, hl.errCause, hl.errSeq, h1, h2, h3]
      error := fun hf => absurd hf hfailed
      seqPositive := hl.seqCtr ▸ h.seqPositive
      waitingBytes := by simp [hl.rxState, hx]
      perReadEmpty := fun hf => (hb hf).trans (h.perReadEmpty hf)
      closedEmpty := by simp [hl.rxState, hx] }

theorem Ctx.Legal.ackRead (h : c.Legal P) (hs : c.ackRead P = .ok c') : c'.Legal P := by
  obtain ⟨ht, hf | ⟨c1, hv, hl, hb⟩⟩ := Ctx.ackRead_cases hs
  · exact h.failed (by simp [ht]) hf
  · exact (h.of_view hv).ackLoop ((Ctx.SameRegs.of_view hv).txState.trans ht) hl hb

theorem Ctx.Legal.ackTimeout (h : c.Legal P) (hs : c.ackTimeout = .ok c') : c'.Legal P := by
  obtain ⟨ht, hf⟩ := Ctx.ackTimeout_failed (P := P) hs
  exact h.failed (by simp [ht]) hf

/-- The sequence number counts up, and not to 0 (R204, R209). -/
theorem Ctx.Legal.nextChunk (h : c.Legal P) (hs : c.nextChunk = .ok c') : c'.Legal P := by
  obtain ⟨ht, hq, rfl⟩ := Ctx.nextChunk_took hs
  obtain ⟨hr, hx⟩ := h.of_tx_active (by simp [ht])
  have harmed := h.disarmed (by simp [ht])
  obtain ⟨h1, h2, h3⟩ := h.noError (by simp [ht])
  have hpos : c.seqCtr + 1#32 ≠ 0#32 := fun h0 => by
    have := Ctx.seqCtr_succ_toNat hq
    rw [h0] at this
    cases this
  constructor <;> simp [hr, hx, harmed, h1, h2, h3, h.timerBound, hpos]
  case perReadEmpty => exact h.perReadEmpty

/-! ### A receiver's changes -/

theorem Ctx.Legal.startReceiver (h : c.Legal P) (hr : c.role = .none) : c.startReceiver.Legal P := by
  obtain ⟨ht, -⟩ := h.of_role_none hr
  have harmed := h.disarmed (by simp [ht])
  obtain ⟨h1, h2, h3⟩ := h.noError (by simp [ht])
  constructor <;> simp [ht, harmed, h1, h2, h3, h.timerBound, h.seqPositive]
  case waitingBytes => intro _ p n; simp [decodePacket]

/-- A closed receiver drops the residual bytes (R241). -/
theorem Ctx.Legal.close (h : c.Legal P) (hx : c.rxState = .serving) (e : Event) : (c.close P e).Legal P := by
  obtain ⟨hr, ht⟩ := h.of_rx_active (by simp [hx])
  have harmed := h.disarmed (by simp [ht])
  obtain ⟨h1, h2, h3⟩ := h.noError (by simp [ht])
  have hper := h.perReadEmpty
  unfold Ctx.close
  split <;> rename_i hf <;> constructor <;> simp [hf, hr, ht, harmed, h1, h2, h3, h.timerBound, h.seqPositive, hper]

theorem Ctx.Legal.rxRead (h : c.Legal P) (hs : c.rxRead P key = .ok c') : c'.Legal P := by
  obtain ⟨hx, ⟨c1, e, hv, rfl⟩ | ⟨hregs, -, hper, hwait⟩⟩ := Ctx.rxRead_cases hs
  · exact (h.of_view hv).close ((Ctx.SameRegs.of_view hv).rxState.trans hx) e
  · exact h.of_sameRegs hregs (fun hf _ => hwait hf) (fun hf => (hper hf).trans (h.perReadEmpty hf)) (by simp [hx])

/-! ### Every change -/

theorem Ctx.Legal.receive {p : Packet} (h : c.Legal P) (hs : c.receive P key p = .ok c') : c'.Legal P := by
  obtain ⟨-, hregs, -, hb⟩ | ⟨ht, hl, hb⟩ := Ctx.receive_cases hs
  · exact h.of_sameRegs_rxbuf hregs hb
  · exact h.ackLoop ht hl fun _ => hb

/-- The timer counts down (R287). -/
theorem Ctx.Legal.tick (h : c.Legal P) : c.tick.Legal P where
  senderRole := by simpa using h.senderRole
  receiverRole := by simpa using h.receiverRole
  timer := by simpa using h.timer
  timerBound := c.tick_ackTimer_le.trans h.timerBound
  noError := by simpa using h.noError
  error := by simpa using h.error
  seqPositive := by simpa using h.seqPositive
  waitingBytes := by simpa using h.waitingBytes
  perReadEmpty := by simpa using h.perReadEmpty
  closedEmpty := by simpa using h.closedEmpty

/-- A reset leads to a legal context from any (R302). -/
theorem Ctx.legal_disconnect (P : Params) (c : Ctx) (d : Bool) : (c.disconnect d).Legal P := by
  constructor <;> simp [seqFirst]

theorem Ctx.Legal.change (h : c.Legal P) (hc : Ctx.Change P key c c') : c'.Legal P := by
  cases hc with
  | ports _ hv => exact h.of_view hv
  | send _ hr _ hv => exact (h.startSender hr).of_view hv
  | serve _ hr _ hv => exact (h.startReceiver hr).of_view hv
  | sendChunk _ hs => exact h.sendChunk hs
  | ackRead _ hs => exact h.ackRead hs
  | ackTimeout _ hs => exact h.ackTimeout hs
  | nextChunk _ hs => exact h.nextChunk hs
  | rxRead _ hs => exact h.rxRead hs
  | receive _ p hs => exact h.receive hs
  | tick => exact h.tick

end Sys2Proof.Machine
end

section
/-! SUPPORT. Every change of a legal context and every reset keeps stop and wait. -/

namespace Sys2Proof.Machine

open Sys2Proof

variable {P : Params} {key : Option Block} {c c' : Ctx}

/-- Stop and wait is about the role, the state, the sequence number and the record of the writes. -/
theorem Ctx.StopAndWait.of_eq (h : c.StopAndWait) (hr : c'.role = c.role) (ht : c'.txState = c.txState)
    (hq : c'.seqCtr = c.seqCtr) (ho : c'.txOut = c.txOut) : c'.StopAndWait where
  count := by rw [hr, ho, Ctx.sentCount, ht, hq]; exact h.count
  numbered := by rw [hr, ho]; exact h.numbered
  answered := by rw [hr, ho, ht]; exact h.answered
  acks := by rw [hr, ho]; exact h.acks
  silent := by rw [hr, ho]; exact h.silent

theorem Ctx.StopAndWait.of_view {r : List Response} (h : c.StopAndWait) (hv : c'.view = { c.view with rsp := r }) :
    c'.StopAndWait :=
  h.of_eq (congrArg Ctx.View.role hv) (congrArg Ctx.View.txState hv) (congrArg Ctx.View.seqCtr hv)
    (congrArg Ctx.View.txOut hv)

/-- A context that has written nothing keeps stop and wait, a sender at the first sequence number. -/
theorem Ctx.stopAndWait_of_txOut_nil (ho : c.txOut = []) (hcount : c.role = .sender → c.sentCount 0) :
    c.StopAndWait := by
  constructor <;> simp [ho]
  exact hcount

/-! ### A sender's changes -/

/-- A sender that has not failed and writes nothing keeps stop and wait where its count fits its new state. -/
theorem Ctx.StopAndWait.of_sender (h : c.StopAndWait) (hr : c.role = .sender) (hr' : c'.role = .sender)
    (ht : c.txState ≠ .failed) (ho : c'.txOut = c.txOut) (hcount : c.sentCount c.txOut.length → c'.sentCount c.txOut.length) :
    c'.StopAndWait where
  count _ := by rw [ho]; exact hcount (h.count hr)
  numbered _ := by rw [ho]; exact h.numbered hr
  answered _ i r hi _ := h.answered hr i r (ho ▸ hi) (.inr ht)
  acks := by simp [hr']
  silent := by simp [hr']

/-- A sender in `Fetch` that writes the frame of its chunk counts it, and all its writes were answered by `Ok` unless it has
failed (R69, R194, R207). -/
theorem Ctx.StopAndWait.of_write {f : Bytes} {a : TxAnswer} (h : c.StopAndWait) (hr : c.role = .sender)
    (ht : c.txState = .fetch) (hf : isDataFrame c.seqCtr.toNat f) (hr' : c'.role = .sender)
    (hq : c'.seqCtr = c.seqCtr) (ho : c'.txOut = c.txOut ++ [⟨f, a⟩])
    (hend : (c'.txState = .awaitingAck ∧ a = .ok) ∨ c'.txState = .failed) : c'.StopAndWait := by
  have hcount : c.txOut.length + 1 = c.seqCtr.toNat := by simpa [Ctx.sentCount, ht] using h.count hr
  have hrecord {i : Nat} {r : TxRecord} (hi : c'.txOut[i]? = some r) :
      c.txOut[i]? = some r ∨ (i = c.txOut.length ∧ r = ⟨f, a⟩) := by
    rw [ho, List.getElem?_append] at hi
    split at hi
    · exact .inl hi
    · obtain ⟨h0, rfl⟩ := List.getElem?_eq_some_iff.mp hi
      rw [List.length_singleton] at h0
      exact .inr ⟨by omega, List.getElem_singleton _⟩
  constructor
  case count =>
    intro _
    rw [ho, List.length_append, Ctx.sentCount]
    obtain ⟨e, -⟩ | e := hend <;> simp [e, hq, hcount]
  case numbered =>
    intro _ i r hi
    obtain hold | ⟨rfl, rfl⟩ := hrecord hi
    · exact h.numbered hr i r hold
    · exact hcount ▸ hf
  case answered =>
    intro _ i r hi hlast
    obtain hold | ⟨rfl, rfl⟩ := hrecord hi
    · exact h.answered hr i r hold (.inr (by simp [ht]))
    · obtain ⟨-, rfl⟩ | e := hend
      · rfl
      · simp [ho, e] at hlast
  case acks => simp [hr']
  case silent => simp [hr']

theorem Ctx.StopAndWait.failed (h : c.StopAndWait) (hr : c.role = .sender)
    (ht : c.txState = .fetch ∨ c.txState = .awaitingAck) (hf : c.Failed P c') : c'.StopAndWait := by
  obtain ⟨c1, e, -, rfl, hv⟩ := hf
  have hregs : c.SameRegs c1 := .of_view hv
  refine h.of_sender hr (hregs.role.trans hr) ?_ (congrArg Ctx.View.txOut hv) fun hcount => ?_
  · obtain ht | ht := ht <;> simp [ht]
  · obtain ht | ht := ht <;> simp only [Ctx.sentCount, ht] at hcount <;> simp [Ctx.sentCount, hregs.seqCtr, hcount]

theorem Ctx.StopAndWait.wrote (h : c.StopAndWait) (hr : c.role = .sender) (ht : c.txState = .fetch)
    (hw : c.Wrote P c') : c'.StopAndWait := by
  obtain ⟨c1, f, a, hf, hv, hend⟩ := hw
  have hregs : c.SameRegs c1 := .of_view hv
  have ho : c1.txOut = c.txOut ++ [⟨f, a⟩] := congrArg Ctx.View.txOut hv
  obtain ⟨rfl, rfl⟩ | rfl := hend
  · exact h.of_write hr ht hf (hregs.role.trans hr) hregs.seqCtr ho (.inl ⟨rfl, rfl⟩)
  · exact h.of_write hr ht hf (hregs.role.trans hr) hregs.seqCtr ho (.inr rfl)

theorem Ctx.StopAndWait.sendChunk (h : c.StopAndWait) (hl : c.Legal P) (hs : c.sendChunk P key = .ok c') :
    c'.StopAndWait := by
  obtain ⟨ht, hcases⟩ := Ctx.sendChunk_cases hs
  obtain ⟨hr, -⟩ := hl.of_tx_active (by simp [ht])
  obtain hf | ⟨c1, hv, rfl⟩ | hw := hcases
  · exact h.failed hr (.inl ht) hf
  · have hregs : c.SameRegs c1 := .of_view hv
    refine h.of_sender hr (hregs.role.trans hr) (by simp [ht]) (congrArg Ctx.View.txOut hv) fun hcount => ?_
    simpa [Ctx.sentCount, ht, hregs.seqCtr] using hcount
  · exact h.wrote hr ht hw

/-- A waiting sender that accepts or waits on has the same frame in flight (R205). -/
theorem Ctx.StopAndWait.ackLoop (h : c.StopAndWait) (hr : c.role = .sender) (ht : c.txState = .awaitingAck)
    (hl : c.AckLoop c') : c'.StopAndWait := by
  refine h.of_sender hr (hl.role.trans hr) (by simp [ht]) hl.txOut fun hcount => ?_
  obtain ⟨e, -⟩ | ⟨e, -⟩ := hl.ends <;> simpa [Ctx.sentCount, ht, e, hl.seqCtr] using hcount

theorem Ctx.StopAndWait.ackRead (h : c.StopAndWait) (hl : c.Legal P) (hs : c.ackRead P = .ok c') : c'.StopAndWait := by
  obtain ⟨ht, hcases⟩ := Ctx.ackRead_cases hs
  obtain ⟨hr, -⟩ := hl.of_tx_active (by simp [ht])
  obtain hf | ⟨c1, hv, hloop, -⟩ := hcases
  · exact h.failed hr (.inr ht) hf
  · have hregs : c.SameRegs c1 := .of_view hv
    exact (h.of_view hv).ackLoop (hregs.role.trans hr) (hregs.txState.trans ht) hloop

theorem Ctx.StopAndWait.ackTimeout (h : c.StopAndWait) (hl : c.Legal P) (hs : c.ackTimeout = .ok c') :
    c'.StopAndWait := by
  obtain ⟨ht, hf⟩ := Ctx.ackTimeout_failed (P := P) hs
  exact h.failed (hl.of_tx_active (by simp [ht])).1 (.inr ht) hf

/-- The next chunk's number is the one after those written (R204, R205). -/
theorem Ctx.StopAndWait.nextChunk (h : c.StopAndWait) (hl : c.Legal P) (hs : c.nextChunk = .ok c') :
    c'.StopAndWait := by
  obtain ⟨ht, hq, rfl⟩ := Ctx.nextChunk_took hs
  obtain ⟨hr, -⟩ := hl.of_tx_active (by simp [ht])
  refine h.of_sender hr hr (by simp [ht]) rfl fun hcount => ?_
  simp only [Ctx.sentCount, ht, Ctx.seqCtr_succ_toNat hq] at hcount ⊢
  omega

/-! ### A receiver's changes -/

/-- A receiver that writes acknowledgments alone keeps stop and wait (R235). -/
theorem Ctx.StopAndWait.of_receiver (h : c.StopAndWait) (hr : c.role = .receiver) (hr' : c'.role = .receiver)
    (hw : c.WroteAcks c') : c'.StopAndWait := by
  obtain ⟨rs, ho, hacks⟩ := hw
  constructor <;> simp [hr']
  intro r hmem
  obtain hold | hnew := List.mem_append.mp (ho ▸ hmem)
  · exact h.acks hr r hold
  · exact hacks r hnew

@[simp] theorem Ctx.close_role (P : Params) (c : Ctx) (e : Event) : (c.close P e).role = c.role := by
  unfold Ctx.close; split <;> rfl

@[simp] theorem Ctx.close_txOut (P : Params) (c : Ctx) (e : Event) : (c.close P e).txOut = c.txOut := by
  unfold Ctx.close; split <;> rfl

theorem Ctx.StopAndWait.rxRead (h : c.StopAndWait) (hl : c.Legal P) (hs : c.rxRead P key = .ok c') :
    c'.StopAndWait := by
  obtain ⟨hx, hcases⟩ := Ctx.rxRead_cases hs
  obtain ⟨hr, -⟩ := hl.of_rx_active (by simp [hx])
  obtain ⟨c1, e, hv, rfl⟩ | ⟨hregs, hw, -, -⟩ := hcases
  · have hr1 : c1.role = .receiver := (Ctx.SameRegs.of_view hv).role.trans hr
    exact (h.of_view hv).of_receiver hr1 (by simp [hr1]) ⟨[], by simp, by simp⟩
  · exact h.of_receiver hr (hregs.role.trans hr) hw

/-! ### Every change -/

theorem Ctx.StopAndWait.receive {p : Packet} (h : c.StopAndWait) (hl : c.Legal P) (hs : c.receive P key p = .ok c') :
    c'.StopAndWait := by
  obtain ⟨hx, hregs, hw, -⟩ | ⟨ht, hloop, -⟩ := Ctx.receive_cases hs
  · obtain ⟨hr, -⟩ := hl.of_rx_active (by simp [hx])
    exact h.of_receiver hr (hregs.role.trans hr) hw
  · exact h.ackLoop (hl.of_tx_active (by simp [ht])).1 ht hloop

theorem Ctx.StopAndWait.change (h : c.StopAndWait) (hl : c.Legal P) (hc : Ctx.Change P key c c') : c'.StopAndWait := by
  cases hc with
  | ports _ hv => exact h.of_view hv
  | send _ hr _ hv =>
    have hstart : c.startSender.StopAndWait :=
      Ctx.stopAndWait_of_txOut_nil (h.silent hr) fun _ => by simp [Ctx.sentCount, seqFirst]
    exact hstart.of_view hv
  | serve _ hr _ hv =>
    have hstart : c.startReceiver.StopAndWait := Ctx.stopAndWait_of_txOut_nil (h.silent hr) (by simp)
    exact hstart.of_view hv
  | sendChunk _ hs => exact h.sendChunk hl hs
  | ackRead _ hs => exact h.ackRead hl hs
  | ackTimeout _ hs => exact h.ackTimeout hl hs
  | nextChunk _ hs => exact h.nextChunk hl hs
  | rxRead _ hs => exact h.rxRead hl hs
  | receive _ p hs => exact h.receive hl hs
  | tick => exact h.of_eq c.tick_role c.tick_txState c.tick_seqCtr c.tick_txOut

/-- A reset starts the record anew (log entry 16). -/
theorem Ctx.stopAndWait_disconnect (c : Ctx) (d : Bool) : (c.disconnect d).StopAndWait :=
  Ctx.stopAndWait_of_txOut_nil rfl (by simp)

end Sys2Proof.Machine
end

section
/-! SUPPORT. What a move can do to the configuration, and how a context's turn or command depends on it. -/

namespace Sys2Proof.Machine

open Sys2Proof

/-! ### `KEY` (R23, R42, R72, R322) -/

/-- A state in which a key load is allowed: the first since the global reset, before any operation, every context idle. -/
def State.KeyOpen (s : State) : Prop :=
  s.started = false ∧ s.keyLoaded = false ∧ ∀ c ∈ s.ctxs, c.role = .none ∧ c.txState = .idle ∧ c.rxState = .idle

theorem Ctx.isIdle_iff (c : Ctx) : c.isIdle = true ↔ c.role = .none ∧ c.txState = .idle ∧ c.rxState = .idle := by
  simp [Ctx.isIdle, and_assoc]

theorem State.all_isIdle_iff (s : State) :
    s.ctxs.all Ctx.isIdle = true ↔ ∀ c ∈ s.ctxs, c.role = .none ∧ c.txState = .idle ∧ c.rxState = .idle := by
  simp only [List.all_eq_true, Ctx.isIdle_iff]

theorem State.loadKey_of_open {s : State} (key : Block) (h : s.KeyOpen) :
    s.loadKey key = .next { s with key := key, keyLoaded := true } := by
  obtain ⟨hs, hk, hidle⟩ := h
  simp [State.loadKey, hs, hk, s.all_isIdle_iff.mpr hidle]

theorem State.loadKey_of_not_open {s : State} (key : Block) (h : ¬s.KeyOpen) : s.loadKey key = .refused .keyLocked := by
  refine if_pos ?_
  by_contra hn
  simp only [Bool.or_eq_true, not_or, Bool.not_eq_true, Bool.not_eq_false'] at hn
  obtain ⟨⟨hs, hk⟩, hidle⟩ := hn
  exact h ⟨hs, hk, s.all_isIdle_iff.mp hidle⟩

/-- `KEY` and its mark are kept. -/
def State.KeepsKey (s t : State) : Prop := t.key = s.key ∧ t.keyLoaded = s.keyLoaded

theorem State.KeepsRest.keepsKey {s t : State} (h : s.KeepsRest t) : s.KeepsKey t := by
  unfold State.KeepsRest at h
  rw [h]
  exact ⟨rfl, rfl⟩

theorem State.turn_keepsKey {k : Nat} {f : Ctx → Turn} {s t : State} (h : s.turn k f = .next t) : s.KeepsKey t := by
  obtain ⟨c, c', -, -, rfl⟩ | ⟨c, -, -, rfl⟩ := State.turn_next h <;> exact ⟨rfl, rfl⟩

theorem State.onCtx_keepsKey {k : Nat} {f : Ctx → Ctx} {s t : State} (h : s.onCtx k f = .next t) : s.KeepsKey t := by
  obtain ⟨c, -, rfl⟩ := State.onCtx_next h
  exact ⟨rfl, rfl⟩

theorem State.takeCommand_keepsKey {k : Nat} {s t : State} (h : s.takeCommand k = .next t) : s.KeepsKey t := by
  obtain ⟨c, -, ⟨-, rfl⟩ | ⟨m, ms, i, -, -, hi⟩⟩ := State.takeCommand_next h
  · exact ⟨rfl, rfl⟩
  · exact (exec_changed hi).2.keepsKey

/-- `KEY` and its mark change by a key load in an open state, and the mark alone by a global reset (R304). -/
theorem runMove_key {m : Move} {s t : State} (h : runMove m s = .next t) :
    s.KeepsKey t ∨ (m = .resetAll ∧ t.key = s.key) ∨ (m = .loadKey t.key ∧ s.KeyOpen) := by
  cases m with
  | host k => exact .inl (State.takeCommand_keepsKey h)
  | sendChunk k => exact .inl (State.turn_keepsKey h)
  | ackRead k => exact .inl (State.turn_keepsKey h)
  | ackTimeout k => exact .inl (State.turn_keepsKey h)
  | nextChunk k => exact .inl (State.turn_keepsKey h)
  | rxRead k => exact .inl (State.turn_keepsKey h)
  | tick => cases h; exact .inl ⟨rfl, rfl⟩
  | resetCtx k discard => exact .inl (State.onCtx_keepsKey h)
  | resetAll => cases h; exact .inr (.inl ⟨rfl, rfl⟩)
  | loadKey key =>
    obtain ⟨hs, hk, hidle, rfl⟩ := State.loadKey_next h
    exact .inr (.inr ⟨rfl, hs, hk, s.all_isIdle_iff.mp hidle⟩)
  | offerCmd k m => exact .inl (State.onCtx_keepsKey h)
  | offerRng k r => exact .inl (State.onCtx_keepsKey h)
  | offerChunk k b => exact .inl (State.onCtx_keepsKey h)
  | answerTx k a => exact .inl (State.onCtx_keepsKey h)
  | offerRx k r => exact .inl (State.onCtx_keepsKey h)

/-- What a step makes of `KEY` and its mark. -/
theorem step_key {s t : State} (h : step s = .next t) :
    s.KeepsKey t ∨ (s.sched.head? = some .resetAll ∧ t.key = s.key) ∨
      ((∃ rest, s.sched = .loadKey t.key :: rest) ∧ s.KeyOpen) := by
  obtain ⟨-, rfl⟩ | ⟨m, rest, hs, hm⟩ := step_cases h
  · exact .inl ⟨rfl, rfl⟩
  · obtain hkeep | ⟨rfl, hkey⟩ | ⟨rfl, hopen⟩ := runMove_key hm
    · exact .inl hkeep
    · exact .inr (.inl ⟨by rw [hs, List.head?_cons], hkey⟩)
    · exact .inr (.inr ⟨⟨rest, hs⟩, hopen⟩)

/-! ### A turn and a command at the ports read one context and the configuration (R24, R73) -/

theorem State.cipherKey_congr {s1 s2 : State} (hkey : s1.key = s2.key) (hloaded : s1.keyLoaded = s2.keyLoaded) :
    s1.cipherKey = s2.cipherKey := by
  simp [State.cipherKey, hkey, hloaded]

/-- One turn function at two states with the same context `k`: both contexts take the same step, or both wait, and nothing but
context `k` and what `mark` sets changes. -/
theorem State.give_independent {k : Nat} {f : Ctx → Turn} {mark : State → State} {s1 s2 t1 : State}
    (hctx : s1.ctx? k = s2.ctx? k) (h : s1.give k f mark = .next t1) :
    ∃ t2, s2.give k f mark = .next t2 ∧
      ((t1 = s1 ∧ t2 = s2) ∨
        ∃ c', t1 = mark (s1.setCtx k c') ∧ t2 = mark (s2.setCtx k c') ∧ (s1.setCtx k c').ctx? k = some c' ∧
          (s2.setCtx k c').ctx? k = some c') := by
  obtain ⟨c, c', hc, hf, rfl⟩ | ⟨c, hc, hf, rfl⟩ := State.give_next h
  · have hc2 := hctx ▸ hc
    exact ⟨_, State.give_ok hc2 hf, .inr ⟨c', rfl, rfl, State.ctx?_setCtx_self hc, State.ctx?_setCtx_self hc2⟩⟩
  · exact ⟨_, State.give_waits (hctx ▸ hc) hf, .inl ⟨rfl, rfl⟩⟩

theorem State.OnlyCtx.refl (k : Nat) (s : State) : s.OnlyCtx k s := ⟨rfl, rfl, fun _ _ => rfl⟩

/-- A sequencer step of context `k` is the same in states that agree. -/
theorem State.turn_independent {k : Nat} {f : Ctx → Turn} {s1 s2 t1 : State} (hctx : s1.ctx? k = s2.ctx? k)
    (h : s1.turn k f = .next t1) :
    s1.OnlyCtx k t1 ∧ ∃ t2, s2.turn k f = .next t2 ∧ t2.ctx? k = t1.ctx? k ∧ s2.OnlyCtx k t2 := by
  obtain ⟨t2, h2, ⟨rfl, rfl⟩ | ⟨c', rfl, rfl, hc1, hc2⟩⟩ := State.give_independent hctx h
  · exact ⟨.refl k _, _, h2, hctx.symm, .refl k _⟩
  · exact ⟨State.setCtx_onlyCtx c' s1, _, h2, hc2.trans hc1.symm, State.setCtx_onlyCtx c' s2⟩

/-- A command performed at the ports of context `k` is the same in states with the same context `k`. -/
theorem State.perform_independent {k : Nat} {f : Ctx → Turn} {s1 s2 t1 : State} (hctx : s1.ctx? k = s2.ctx? k)
    (h : State.perform f { s1 with cur := k } = .next t1) :
    { s1 with started := t1.started }.OnlyCtx k t1 ∧
      ∃ t2, State.perform f { s2 with cur := k } = .next t2 ∧ t2.ctx? k = t1.ctx? k ∧
        { s2 with started := t2.started }.OnlyCtx k t2 := by
  obtain ⟨t2, h2, ⟨rfl, rfl⟩ | ⟨c', rfl, rfl, hc1, hc2⟩⟩ :=
    State.give_independent (s1 := { s1 with cur := k }) (s2 := { s2 with cur := k }) hctx h
  · exact ⟨.refl k _, _, h2, hctx.symm, .refl k _⟩
  · exact ⟨State.setCtx_onlyCtx c' { s1 with started := true }, _, h2, hc2.trans hc1.symm,
      State.setCtx_onlyCtx c' { s2 with started := true }⟩

/-- What a command message decodes to is encoded as a command, so it is no frame (R90, R95): by the shape of the arguments and
the operation code. -/
theorem decodeCmd_encode_cmd {m : CmdMsg} {i : Instr} (h : decodeCmd m = .ok i) : ∃ m', encode i = .cmd m' := by
  obtain ⟨op, ctx, args⟩ := m
  rcases args with _ | ⟨_ | _ | _, _ | ⟨_ | _ | _, _ | _⟩⟩
  all_goals fin_cases op <;> cases h <;> exact ⟨_, rfl⟩

/-- A command is a start of a context, a reserved code that is refused, or an operation of the units: a turn at the ports of
the context `cur`, whose function the parameters and the key fix (R90 to R92). -/
theorem exec_command_cases {m : CmdMsg} {i : Instr} (h : decodeCmd m = .ok i) (P : Params) (key : Option Block) :
    (∃ j, i = .send j ∨ i = .serve j) ∨ (∃ r, ∀ s, exec i s = .refused r) ∨
      ∃ f, ∀ s : State, s.params = P → s.cipherKey = key → exec i s = s.perform f := by
  obtain ⟨m', hcmd⟩ := decodeCmd_encode_cmd h
  have answered {i : Instr} (regs : List WorkReg) (r : Response) (hi : ∀ s, exec i s = s.answer regs r) :
      ∃ f, ∀ s : State, s.params = P → s.cipherKey = key → exec i s = s.perform f := ⟨_, fun s _ _ => hi s⟩
  have replied {i : Instr} (r : Response) (hi : ∀ s, exec i s = s.reply r) :
      ∃ f, ∀ s : State, s.params = P → s.cipherKey = key → exec i s = s.perform f := ⟨_, fun s _ _ => hi s⟩
  cases i with
  | data | ackf | unknown => cases hcmd
  | send j => exact .inl ⟨j, .inl rfl⟩
  | serve j => exact .inl ⟨j, .inr rfl⟩
  | reserved0 | reservedB | reservedC | reservedD | reservedE | reservedF => exact .inr (.inl ⟨_, fun _ => rfl⟩)
  | crc32 | verify | mkack => exact .inr (.inr (answered _ _ fun _ => rfl))
  | encrypt _ p => exact .inr (.inr ⟨Ctx.encrypt P key p, by rintro s rfl rfl; rfl⟩)
  | decrypt _ d => exact .inr (.inr ⟨Ctx.decrypt P key d, by rintro s rfl rfl; rfl⟩)
  | encode _ p =>
    refine .inr (.inr ?_)
    cases he : encodePacket p with
    | error e => exact replied (.err (framingErr e)) fun s => by simp [exec, execEncode, he]
    | ok f => exact replied (.bytes f) fun s => by simp [exec, execEncode, he]
  | decode _ b =>
    refine .inr (.inr ?_)
    cases hd : decodePacket b with
    | error e => exact replied (.err (framingErr e)) fun s => by simp [exec, execDecode, hd]
    | ok q => exact answered [.pk] (.decoded q.1 q.2) fun s => by simp [exec, execDecode, hd]
  | mkdata _ seq b =>
    refine .inr (.inr ?_)
    cases hm : makeData seq b with
    | error e => exact replied (.err (framingErr e)) fun s => by simp [exec, execMkdata, hm]
    | ok p => exact answered [.crc, .pk] (.packet p) fun s => by simp [exec, execMkdata, hm]

/-- A sequencer step is a turn whose function the parameters and the key fix. -/
theorem runMove_turn {m : Move} {k : Nat} (hm : m.turnOf = some k) (P : Params) (key : Option Block) :
    ∃ f, ∀ s : State, s.params = P → s.cipherKey = key → runMove m s = s.turn k f := by
  cases m with
  | sendChunk => cases hm; exact ⟨Ctx.sendChunk P key, by rintro s rfl rfl; rfl⟩
  | ackRead => cases hm; exact ⟨Ctx.ackRead P, by rintro s rfl rfl; rfl⟩
  | ackTimeout => cases hm; exact ⟨Ctx.ackTimeout, by rintro s rfl rfl; rfl⟩
  | nextChunk => cases hm; exact ⟨Ctx.nextChunk, by rintro s rfl rfl; rfl⟩
  | rxRead => cases hm; exact ⟨Ctx.rxRead P key, by rintro s rfl rfl; rfl⟩
  | _ => cases hm

/-- The core with a command pending at context `k` performs it, when it decodes. -/
theorem State.takeCommand_cons {k : Nat} {s : State} {c : Ctx} {m : CmdMsg} {ms : List CmdMsg} {i : Instr}
    (hc : s.ctx? k = some c) (hm : c.cmdIn = m :: ms) (hd : decodeCmd m = .ok i) :
    s.takeCommand k = exec i { s with cur := k } := by
  simp [State.takeCommand, hc, hm, hd]

/-- With no command pending at context `k` the core waits. -/
theorem State.takeCommand_nil {k : Nat} {s : State} {c : Ctx} (hc : s.ctx? k = some c) (hm : c.cmdIn = []) :
    s.takeCommand k = .next s := by
  simp [State.takeCommand, hc, hm]

/-- A command at the ports of context `k` that names no context is the same in states that agree on `k` and the
configuration. -/
theorem State.takeCommand_independent {k : Nat} {s1 s2 t1 : State}
    (hunit : ∀ j, ¬s1.commands (.host k) (.send j) ∧ ¬s1.commands (.host k) (.serve j)) (hparams : s1.params = s2.params)
    (hkey : s1.cipherKey = s2.cipherKey) (hctx : s1.ctx? k = s2.ctx? k) (h : s1.takeCommand k = .next t1) :
    { s1 with started := t1.started }.OnlyCtx k t1 ∧
      ∃ t2, s2.takeCommand k = .next t2 ∧ t2.ctx? k = t1.ctx? k ∧ { s2 with started := t2.started }.OnlyCtx k t2 := by
  obtain ⟨c, hc, ⟨hm, rfl⟩ | ⟨m, ms, i, hm, hd, hi⟩⟩ := State.takeCommand_next h
  · exact ⟨.refl k _, _, State.takeCommand_nil (hctx ▸ hc) hm, hctx.symm, .refl k _⟩
  · obtain ⟨j, rfl | rfl⟩ | ⟨r, hr⟩ | ⟨f, hf⟩ := exec_command_cases hd s1.params s1.cipherKey
    · exact absurd ⟨k, c, m, ms, rfl, hc, hm, hd⟩ (hunit j).1
    · exact absurd ⟨k, c, m, ms, rfl, hc, hm, hd⟩ (hunit j).2
    · rw [hr] at hi; cases hi
    · rw [hf { s1 with cur := k } rfl rfl] at hi
      rw [State.takeCommand_cons (hctx ▸ hc) hm hd, hf { s2 with cur := k } hparams.symm hkey.symm]
      exact State.perform_independent hctx hi

end Sys2Proof.Machine
end

section
/-! What every step keeps of a state (10_state.md): the invariants, the configuration, and the independence of contexts. -/

namespace Sys2Proof.Machine

open Sys2Proof

/-- Settles O59: every change of a context and every reset keeps it legal. -/
theorem legalIsKept : Obligations.LegalIsKept := by
  unfold Obligations.LegalIsKept
  intro s t hs h
  exact step_keeps (fun _ _ _ _ hl hc => hl.change hc) (fun P c d _ => c.legal_disconnect P d) hs h

/-- Settles O60: legality and stop and wait together are kept by every change of a context and every reset. -/
theorem stopAndWaitIsKept : Obligations.StopAndWaitIsKept := by
  unfold Obligations.StopAndWaitIsKept
  intro s t hs hw h c hc
  have hkept := step_keeps (Q := fun P c => c.Legal P ∧ c.StopAndWait)
    (fun _ _ _ _ hq hch => ⟨hq.1.change hch, hq.2.change hq.1 hch⟩)
    (fun P c d _ => ⟨c.legal_disconnect P d, c.stopAndWait_disconnect d⟩) (fun c hc => ⟨hs c hc, hw c hc⟩) h
  exact (hkept c hc).2

/-- Settles O52: `KEY` changes by a key load in an open state alone, and its mark also by a global reset. -/
theorem configurationIsConstant : Obligations.ConfigurationIsConstant := by
  unfold Obligations.ConfigurationIsConstant
  refine ⟨fun s t h => ?_, fun key s => ⟨State.loadKey_of_open key, State.loadKey_of_not_open key⟩⟩
  obtain ⟨hparams, hlength, -⟩ := step_ctx h
  refine ⟨hparams, hlength, fun hchange => ?_, fun hloaded hreset => ?_⟩
  · obtain ⟨hkey, -⟩ | ⟨-, hkey⟩ | ⟨hload, hopen⟩ := step_key h
    · exact absurd hkey hchange
    · exact absurd hkey hchange
    · exact ⟨hload, hopen⟩
  · obtain ⟨hkey, hmark⟩ | ⟨hhead, -⟩ | ⟨-, -, hfresh, -⟩ := step_key h
    · exact ⟨hmark.trans hloaded, hkey⟩
    · exact absurd hhead hreset
    · rw [hloaded] at hfresh; cases hfresh

/-- Settles O53: the function of a turn, and of a unit's command, is fixed by the parameters and the key, and reads one
context. -/
theorem contextsAreIndependent : Obligations.ContextsAreIndependent := by
  unfold Obligations.ContextsAreIndependent
  refine ⟨fun m k s1 s2 t1 hm hkey hparams hloaded hctx h => ?_,
    fun k s1 s2 t1 hunit hkey hparams hloaded hctx h => ?_⟩
  · obtain ⟨f, hf⟩ := runMove_turn hm s1.params s1.cipherKey
    rw [hf s1 rfl rfl] at h
    rw [hf s2 hparams.symm (State.cipherKey_congr hkey hloaded).symm]
    exact State.turn_independent hctx h
  · exact State.takeCommand_independent hunit hparams (State.cipherKey_congr hkey hloaded) hctx h

/-- Settles O56: the contexts after reset are those of the register table. -/
theorem resetValues : Obligations.ResetValues := by
  unfold Obligations.ResetValues
  intro c hc
  obtain ⟨unit, -, rfl⟩ := List.mem_map.mp hc
  simp [Ctx.afterReset, seqFirst]

end Sys2Proof.Machine
end

section
/-! SUPPORT. Where a frame row, a command and two turns lead: a frame at a context that reads nothing, the command a host's move
performs, and changes of different contexts in either order. -/

namespace Sys2Proof.Machine

open Sys2Proof

/-! ### A frame at a context that reads nothing (R59, R196) -/

theorem Ctx.receive_waits {P : Params} {key : Option Block} {p : Packet} {c : Ctx} (hx : c.rxState ≠ .serving)
    (ht : c.txState ≠ .awaitingAck) : c.receive P key p = .error .waits := by
  rw [Ctx.receive, if_neg hx, if_neg ht]

theorem State.receive_waits {p : Packet} {s : State} {c : Ctx} (hc : s.ctx? s.cur = some c) (hx : c.rxState ≠ .serving)
    (ht : c.txState ≠ .awaitingAck) : s.receive p = .next s :=
  State.turn_waits hc (Ctx.receive_waits hx ht)

/-! ### The next move, and the command it performs (R52, R90) -/

theorem step_cons {s : State} {m : Move} {rest : List Move} (h : s.sched = m :: rest) :
    step s = runMove m { s with sched := rest } := by
  rw [step, h]

theorem decode_cmd_eq_ok {m : CmdMsg} {i : Instr} {rest : Bytes} :
    decode (.cmd m) = .ok (i, rest) ↔ decodeCmd m = .ok i ∧ rest = [] := by
  cases h : decodeCmd m <;> simp [decode, h, eq_comm]

/-! ### Changes of one context after those of the same or of another (R73) -/

theorem State.OnlyCtx.trans {k : Nat} {s t u : State} (h : s.OnlyCtx k t) (g : t.OnlyCtx k u) : s.OnlyCtx k u := by
  obtain ⟨e1, l1, o1⟩ := h
  obtain ⟨e2, l2, o2⟩ := g
  refine ⟨?_, l2.trans l1, fun j hj => (o2 j hj).trans (o1 j hj)⟩
  rw [e2, e1]

/-- A change of context `j` and then of context `k` leaves the state that the same changes leave in the other order, but for
the model's own `cur`. -/
theorem State.OnlyCtx.comm {j k : Nat} {s s1 s2 s1' s2' : State} (hjk : j ≠ k) (h1 : s.OnlyCtx j s1) (h2 : s1.OnlyCtx k s2)
    (h1' : s.OnlyCtx k s1') (h2' : s1'.OnlyCtx j s2') (hk : s1'.ctx? k = s2.ctx? k) (hj : s2'.ctx? j = s1.ctx? j) :
    { s2' with cur := s2.cur } = s2 := by
  obtain ⟨e1, -, o1⟩ := h1
  obtain ⟨e2, -, o2⟩ := h2
  obtain ⟨e1', -, o1'⟩ := h1'
  obtain ⟨e2', -, o2'⟩ := h2'
  have hctxs : s2'.ctxs = s2.ctxs := by
    refine List.ext_getElem? fun i => ?_
    change s2'.ctx? i = s2.ctx? i
    by_cases hij : i = j
    · subst hij; rw [hj, o2 _ hjk]
    · by_cases hik : i = k
      · subst hik; rw [o2' _ hij, hk]
      · rw [o2' _ hij, o1' _ hik, o2 _ hik, o1 _ hij]
  rw [e2', e1', e2, e1, hctxs]

theorem State.OnlyCtx.config {k : Nat} {s t : State} (h : s.OnlyCtx k t) :
    t.key = s.key ∧ t.params = s.params ∧ t.keyLoaded = s.keyLoaded := by
  obtain ⟨e, -⟩ := h
  rw [e]
  exact ⟨rfl, rfl, rfl⟩

end Sys2Proof.Machine
end

section
/-! SUPPORT. What a receiver does with a run of whole frames: the bytes after them, the reads still pending and the working
registers play no part in it. -/

namespace Sys2Proof.Machine

open Sys2Proof

variable {P : Params} {key : Option Block}

/-! ### Handling a packet reads neither `rxbuf`, nor `RX_IN`, nor a working register (R234 to R238) -/

/-- The context with these bytes in `rxbuf`, these reads pending and these working registers. -/
def Ctx.withRx (r : Bytes) (i : List RxMsg) (w : Work) (c : Ctx) : Ctx := { c with rxbuf := r, rxIn := i, work := w }

@[simp] theorem Ctx.withRx_txAns (r : Bytes) (i : List RxMsg) (w : Work) (c : Ctx) :
    (c.withRx r i w).txAns = c.txAns := rfl

/-- The groups of working registers that the handling of a packet may write. -/
def packetRegs : List WorkReg := [.pk, .crc, .frame, .cipher]

/-- A step of a context in which `rxbuf`, the pending reads and the working registers play no part: it keeps the first two,
and writes the working registers of a packet's handling at most (U2). -/
def Ctx.IgnoresRx (f : Ctx → Turn) : Prop :=
  ∀ {c c' : Ctx}, f c = .ok c' → ∀ r i w, ∃ w', f (c.withRx r i w) = .ok (c'.withRx r i w') ∧ w.KeepsBut packetRegs w'

theorem Work.touch_keepsBut_of_subset {regs regs' : List WorkReg} (h : regs ⊆ regs') (w : Work) :
    w.KeepsBut regs' (w.touch regs) :=
  .trans (Work.touch_keepsBut regs w) (.refl [] _) h (List.nil_subset _)

theorem Ctx.sendAck_ignoresRx (seq : Word) : Ctx.IgnoresRx (Ctx.sendAck seq) := by
  intro c c' h r i w
  refine ⟨w.touch [.crc, .pk, .frame], ?_, Work.touch_keepsBut_of_subset (by decide) w⟩
  cases ha : c.txAns with
  | nil => simp only [Ctx.sendAck, Ctx.txWrite, Ctx.touch_txAns, ha] at h; cases h
  | cons a as =>
    cases a <;>
    · simp only [Ctx.sendAck, Ctx.txWrite, Ctx.touch_txAns, Ctx.withRx_txAns, ha] at h ⊢
      cases h
      rfl

theorem Ctx.deliver_ignoresRx (p : Packet) : Ctx.IgnoresRx (Ctx.deliver P key p) := by
  intro c c' h r i w
  cases hd : P.autoDecrypt with
  | false =>
    simp only [Ctx.deliver, hd] at h ⊢
    cases h
    exact ⟨w, rfl, .refl _ _⟩
  | true =>
    cases key with
    | none => rw [Ctx.deliver_noKey hd] at h; cases h
    | some k =>
      cases ho : openBytes (blockEncOf P k) p.payload with
      | error e =>
        simp only [Ctx.deliver, hd, ho] at h ⊢
        cases h
        exact ⟨w, rfl, .refl _ _⟩
      | ok t =>
        simp only [Ctx.deliver, hd, ho] at h ⊢
        cases h
        exact ⟨_, rfl, Work.touch_keepsBut_of_subset (by decide) w⟩

theorem Ctx.handleData_ignoresRx (p : Packet) : Ctx.IgnoresRx (Ctx.handleData P key p) := by
  intro c c' h r i w
  unfold Ctx.handleData at h ⊢
  cases hs : c.sendAck p.sequenceNumber with
  | error e => simp only [hs] at h; cases h
  | ok c1 =>
    simp only [hs] at h
    obtain ⟨w1, hs1, hw1⟩ := Ctx.sendAck_ignoresRx _ hs r i w
    obtain ⟨w2, hd2, hw2⟩ := Ctx.deliver_ignoresRx p h r i w1
    rw [hs1]
    exact ⟨w2, hd2, hw1.trans hw2 (.refl _) (.refl _)⟩

theorem Ctx.handlePacket_ignoresRx (p : Packet) : Ctx.IgnoresRx (Ctx.handlePacket P key p) := by
  intro c c' h r i w
  have touched : w.KeepsBut packetRegs (w.touch [.crc]) := Work.touch_keepsBut_of_subset (by decide) w
  simp only [Ctx.handlePacket] at h ⊢
  split_ifs at h ⊢
  · obtain ⟨w', hd, hw⟩ := Ctx.handleData_ignoresRx p h r i (w.touch [.crc])
    exact ⟨w', hd, touched.trans hw (.refl _) (.refl _)⟩
  all_goals
    cases h
    exact ⟨_, rfl, touched⟩

/-! ### The loop of RxRead over a run of whole frames (R179, R239) -/

theorem framesOf_cons_append (p : Packet) (ps : List Packet) (r : Bytes) :
    framesOf (p :: ps) ++ r = frameOf p ++ (framesOf ps ++ r) := by
  rw [framesOf_cons, List.append_assoc]

/-- The loop of RxRead takes the frame at the front, handles it and goes on. -/
theorem Ctx.rxFrames_frameOf {p : Packet} {c c' : Ctx} {rest : Bytes} {n : Nat} (hp : p.WellFormed)
    (hb : c.rxbuf = frameOf p ++ rest) :
    Ctx.rxFrames P key (n + 1) c = .ok c' ↔
      ∃ c1, ({ c with rxbuf := rest }.touch [.pk]).handlePacket P key p = .ok c1 ∧ Ctx.rxFrames P key n c1 = .ok c' := by
  rw [Ctx.rxFrames, Ctx.deframe_frameOf hp hb]
  cases h : ({ c with rxbuf := rest }.touch [.pk]).handlePacket P key p <;> simp [h]

/-- The loop of RxRead makes `c1` of `c` when these frames are what it finds: whatever incomplete rest follows them, whatever
reads are pending, and whatever the working registers hold. -/
def Ctx.Handles (P : Params) (key : Option Block) (ps : List Packet) (c c1 : Ctx) : Prop :=
  ∀ (r : Bytes) (i : List RxMsg) (w : Work) (n : Nat), noWholeFrame r → ps.length ≤ n →
    ∃ w', Ctx.rxFrames P key n (c.withRx (framesOf ps ++ r) i w) = .ok (c1.withRx r i w') ∧ w.KeepsBut packetRegs w'

/-- A loop over a run of frames and more bytes is the loop over the run, and then the loop over those bytes. -/
theorem Ctx.rxFrames_framesOf : ∀ {ps : List Packet} {n : Nat} {c c' : Ctx} {rest : Bytes},
    (∀ q ∈ ps, q.WellFormed) → c.rxbuf = framesOf ps ++ rest → Ctx.rxFrames P key (n + ps.length) c = .ok c' →
    ∃ c1, Ctx.Handles P key ps c c1 ∧ c1.rxState = c.rxState ∧ c1.rxbuf = rest ∧ Ctx.rxFrames P key n c1 = .ok c'
  | [], n, c, c', rest, _, hb, h =>
    ⟨c, fun r i w m hr _ => ⟨w, Ctx.rxFrames_noWholeFrame P key m hr, .refl _ _⟩, rfl, hb, h⟩
  | p :: ps, n, c, c', rest, hq, hb, h => by
    obtain ⟨hp, hps⟩ := List.forall_mem_cons.mp hq
    rw [framesOf_cons_append] at hb
    rw [List.length_cons, ← Nat.add_assoc, Ctx.rxFrames_frameOf hp hb] at h
    obtain ⟨c2, h2, h⟩ := h
    obtain ⟨hregs, hbuf, -⟩ := Ctx.handlePacket_keeps h2
    obtain ⟨c1, hall, hs1, hb1, h1⟩ := Ctx.rxFrames_framesOf hps hbuf h
    refine ⟨c1, fun r i w m hr hm => ?_, hs1.trans hregs.rxState, hb1, h1⟩
    obtain ⟨m, rfl⟩ := Nat.exists_eq_succ_of_ne_zero (Nat.ne_zero_of_lt hm)
    have touched : w.KeepsBut packetRegs (w.touch [.pk]) := Work.touch_keepsBut_of_subset (by decide) w
    obtain ⟨w2, he2, hw2⟩ := Ctx.handlePacket_ignoresRx p h2 (framesOf ps ++ r) i (w.touch [.pk])
    obtain ⟨w1, he1, hw1⟩ := hall r i w2 m hr (Nat.le_of_succ_le_succ hm)
    exact ⟨w1, (Ctx.rxFrames_frameOf hp (framesOf_cons_append p ps r)).mpr ⟨_, he2, he1⟩,
      touched.trans (hw2.trans hw1 (.refl _) (.refl _)) (.refl _) (.refl _)⟩

/-! ### Reads that complete a run of whole frames (R239) -/

/-- A read at a receiver that reassembles is the loop over the bytes held and read. -/
theorem Ctx.rxRead_reassemble {c : Ctx} {b : Bytes} {ms : List RxMsg} (hf : P.rxFraming = .reassemble)
    (hs : c.rxState = .serving) (h : c.rxIn = .read b :: ms) (hl : b.length ≤ P.rxBufBytes) :
    c.rxRead P key =
      Ctx.rxFrames P key (c.rxbuf ++ b).length ({ c with rxIn := ms, rxbuf := c.rxbuf ++ b }.touch [.rxRead]) := by
  rw [Ctx.rxRead_read hs h hl, Ctx.rxBytes, hf]
  rfl

/-- A read that completes this run of frames makes of a receiver what the loop makes of it. -/
theorem Ctx.Handles.rxRead {ps : List Packet} {c c1 : Ctx} {x b r : Bytes} (hall : Ctx.Handles P key ps c c1)
    (hf : P.rxFraming = .reassemble) (hs : c.rxState = .serving) (hl : b.length ≤ P.rxBufBytes)
    (hx : x ++ b = framesOf ps ++ r) (hr : noWholeFrame r) (i : List RxMsg) (w : Work) :
    ∃ w', (c.withRx x (.read b :: i) w).rxRead P key = .ok (c1.withRx r i w') ∧ w.KeepsBut (.rxRead :: packetRegs) w' := by
  have hfuel : ps.length ≤ (x ++ b).length := by
    have := length_le_framesOf ps
    rw [hx, List.length_append]
    omega
  obtain ⟨w', he, hw⟩ := hall r i (w.touch [.rxRead]) (x ++ b).length hr hfuel
  rw [← hx] at he
  exact ⟨w', (Ctx.rxRead_reassemble (c := c.withRx x (.read b :: i) w) hf hs rfl hl).trans he,
    (Work.touch_keepsBut [.rxRead] w).trans hw (by simp) (by simp)⟩

/-- What a read of `b1 ++ b2` makes of a receiver that reassembles, a read of `b1` and then one of `b2` make of it, but for
the working registers: the frames that `b1 ++ b2` completes are those that `b1` completes and then those that `b2` does. -/
theorem Ctx.rxRead_append {c c' : Ctx} {b1 b2 : Bytes} {ms : List RxMsg} (hf : P.rxFraming = .reassemble)
    (hs : c.rxState = .serving) (hin : c.rxIn = .read b1 :: .read b2 :: ms) (hl : (b1 ++ b2).length ≤ P.rxBufBytes)
    (h : Ctx.rxRead P key { c with rxIn := .read (b1 ++ b2) :: ms } = .ok c') (hin' : c'.rxIn = ms) :
    ∃ c1 c2, c.rxRead P key = .ok c1 ∧ c1.rxRead P key = .ok c2 ∧
      c.Became c'.view c'.inputs (.rxRead :: packetRegs) c2 := by
  obtain ⟨ps1, r1, hq1, hb1, hr1⟩ := exists_framesOf _ (c.rxbuf ++ b1) le_rfl
  obtain ⟨ps2, r2, hq2, hb2, hr2⟩ := exists_framesOf _ (r1 ++ b2) le_rfl
  have hb : c.rxbuf ++ (b1 ++ b2) = framesOf ps1 ++ (r1 ++ b2) := by
    rw [← List.append_assoc, hb1, List.append_assoc]
  obtain ⟨n, hn⟩ : ∃ n, (c.rxbuf ++ (b1 ++ b2)).length = n + ps2.length + ps1.length := by
    have h1 := length_le_framesOf ps1
    have h2 := length_le_framesOf ps2
    refine ⟨(c.rxbuf ++ (b1 ++ b2)).length - ps2.length - ps1.length, ?_⟩
    rw [hb, hb2]
    simp only [List.length_append]
    omega
  rw [Ctx.rxRead_reassemble (c := { c with rxIn := .read (b1 ++ b2) :: ms }) hf hs rfl hl, hn] at h
  obtain ⟨c1, hall1, hs1, hbuf1, h⟩ := Ctx.rxFrames_framesOf hq1 hb h
  obtain ⟨c2, hall2, -, hbuf2, h⟩ := Ctx.rxFrames_framesOf hq2 (hbuf1.trans hb2) h
  rw [Ctx.rxFrames_noWholeFrame P key n (hbuf2 ▸ hr2)] at h
  cases h
  rw [List.length_append] at hl
  obtain ⟨w1, he1, hw1⟩ := hall1.rxRead hf hs (by omega) hb1 hr1 (.read b2 :: ms) c.work
  obtain ⟨w2, he2, hw2⟩ := hall2.rxRead hf (hs1.trans hs) (by omega) hb2 hr2 ms w1
  rw [← hin] at he1
  refine ⟨_, _, he1, he2, ?_, ?_, hw1.trans hw2 (.refl _) (.refl _)⟩
  · rw [← hbuf2]; rfl
  · rw [← hin']; rfl

end Sys2Proof.Machine
end

section
/-! The connection, the ports and the contexts beside each other (20_memory.md): where reads are cut, frames that no context
reads, the command a step performs, and steps in either order. -/

namespace Sys2Proof.Machine

open Sys2Proof

/-- Settles O42: a read of `b1 ++ b2` that is taken is a read of `b1` and one of `b2`. -/
theorem splitReadsMakeNoDifference : Obligations.SplitReadsMakeNoDifference := by
  unfold Obligations.SplitReadsMakeNoDifference
  intro k s whole t c c' b1 b2 ms hf hc hs hin hl hwhole hrun hc' hin'
  subst hwhole
  obtain ⟨d, d', hd, hread, rfl⟩ | ⟨d, hd, -, rfl⟩ := State.turn_next hrun
  · rw [State.ctx?_setCtx_self hc] at hd
    cases hd
    obtain rfl : d' = c' := Option.some.inj ((State.ctx?_setCtx_self (State.ctx?_setCtx_self hc)).symm.trans hc')
    obtain ⟨c1, c2, h1, h2, hbecame⟩ := Ctx.rxRead_append hf hs hin hl hread hin'
    have hc1 : { s.setCtx k c1 with cur := k }.ctx? k = some c1 := State.ctx?_setCtx_self hc
    exact ⟨_, _, State.turn_took hc h1, State.turn_took hc1 h2, _,
      (State.setCtx_onlyCtx c1 s).trans (State.setCtx_onlyCtx c2 _), c2, State.ctx?_setCtx_self hc1, hbecame⟩
  · rw [State.ctx?_setCtx_self hc] at hc'
    cases hc'
    exact absurd hin' (by simp)

/-- Settles O33: DATA, ACKF and UNKNOWN are frames read by the context `cur`, which waits. -/
theorem framesElsewhereAreLeft : Obligations.FramesElsewhereAreLeft := by
  unfold Obligations.FramesElsewhereAreLeft
  intro kind seq cks len b s c hc hx ht
  exact ⟨State.receive_waits hc hx ht, State.receive_waits hc hx ht, State.receive_waits hc hx ht⟩

/-- Settles O46: a step is its move, and the host's move performs the command pending. -/
theorem stepRunsCommand : Obligations.StepRunsCommand := by
  unfold Obligations.StepRunsCommand
  intro s k c m ms i rest hsched hc hm hd
  rw [step_cons hsched]
  exact State.takeCommand_cons (s := { s with sched := rest }) hc hm (decode_cmd_eq_ok.mp hd).1

/-- Settles O54: each step takes the same way whether the other has been taken or not, and changes its own context alone. -/
theorem stepsOfContextsCommute : Obligations.StepsOfContextsCommute := by
  unfold Obligations.StepsOfContextsCommute
  intro m1 m2 j k s s1 s2 hm1 hm2 hjk h1 h2
  have turn := contextsAreIndependent.1
  obtain ⟨only1, -⟩ := turn m1 j s s s1 hm1 rfl rfl rfl rfl h1
  obtain ⟨hkey, hparams, hloaded⟩ := only1.config
  obtain ⟨only2, s1', h2', hk, only1'⟩ := turn m2 k s1 s s2 hm2 hkey hparams hloaded (only1.2.2 k hjk.symm) h2
  obtain ⟨hkey', hparams', hloaded'⟩ := only1'.config
  obtain ⟨-, s2', h1', hj, only2'⟩ :=
    turn m1 j s s1' s1 hm1 hkey'.symm hparams'.symm hloaded'.symm (only1'.2.2 j hjk).symm h1
  exact ⟨s1', s2', h2', h1', only1.comm hjk only2 only1' only2' hk hj⟩

end Sys2Proof.Machine
end

section
/-! SUPPORT. What the encoder writes is what the decoder reads: for frames through the packets they carry, for commands as an
equivalence of the two functions; and what a context number outside the range does. -/

namespace Sys2Proof.Machine

open Sys2Proof

/-! ### Frames (R80 to R83, R174) -/

/-- The row of a packet's frame encodes that frame. -/
@[simp] theorem encode_frameInstr (p : Packet) : encode (frameInstr p) = .frame (frameOf p) := by
  unfold frameInstr
  split
  case isTrue hdata => rw [frameOf, hdata]; rfl
  case isFalse =>
    split
    case isTrue hack => rw [frameOf, hack]; rfl
    case isFalse => rfl

/-- The row of a packet is well-formed when the packet is (R21, R83). -/
@[simp] theorem wellFormed_frameInstr (p : Packet) : (frameInstr p).WellFormed = true ↔ p.WellFormed := by
  unfold frameInstr
  split
  case isTrue => simp [Instr.WellFormed]
  case isFalse hdata =>
    split
    case isTrue => simp [Instr.WellFormed]
    case isFalse hack => simp [Instr.WellFormed, hdata, hack]

/-- A well-formed instruction that is sent as a frame is the row of a well-formed packet, sent as the packet's frame. -/
theorem exists_frameInstr {i : Instr} {b : Bytes} (hw : i.WellFormed = true) (hb : encode i = .frame b) :
    ∃ p : Packet, p.WellFormed ∧ i = frameInstr p ∧ b = frameOf p := by
  have row {p : Packet} (hi : i = frameInstr p) : ∃ p : Packet, p.WellFormed ∧ i = frameInstr p ∧ b = frameOf p := by
    subst hi
    exact ⟨p, (wellFormed_frameInstr p).mp hw, rfl, Msg.frame.inj (hb.symm.trans (encode_frameInstr p))⟩
  cases i with
  | data seq cks len payload => exact row (p := ⟨kindData, seq, cks, len, payload⟩) rfl
  | ackf seq cks len payload => exact row (p := ⟨kindAck, seq, cks, len, payload⟩) rfl
  | unknown kind seq cks len payload =>
    simp only [Instr.WellFormed, Bool.and_eq_true, bne_iff_ne] at hw
    obtain ⟨⟨-, hdata⟩, hack⟩ := hw
    exact row (p := ⟨kind, seq, cks, len, payload⟩) (by simp [frameInstr, hdata, hack])
  | _ => cases hb

/-- The decoder reads the frame at the front of a byte sequence, and leaves the rest (R174, R175). -/
theorem decode_frameOf {p : Packet} (h : p.WellFormed) (rest : Bytes) :
    decode (.frame (frameOf p ++ rest)) = .ok (frameInstr p, rest) := by
  have hlen : 11 + p.payload.length = (frameOf p).length := (frameOf_length p).symm
  rw [decode, decodeFrame, decodePacket_frameOf p rest h]
  simp only [hlen, List.drop_left]

/-- What the decoder reads from a byte sequence is the row of the well-formed packet whose frame stands at the front. -/
theorem decode_frame_eq_ok {b : Bytes} {i : Instr} {rest : Bytes} :
    decode (.frame b) = .ok (i, rest) ↔ ∃ p : Packet, p.WellFormed ∧ i = frameInstr p ∧ b = frameOf p ++ rest := by
  constructor
  · intro h
    cases hd : decodePacket b with
    | error e => simp [decode, decodeFrame, hd] at h
    | ok q =>
      obtain ⟨p, n⟩ := q
      obtain ⟨hw, -, hb⟩ := decodePacket_ok hd
      simp only [decode, decodeFrame, hd, Except.ok.injEq, Prod.mk.injEq] at h
      obtain ⟨rfl, rfl⟩ := h
      exact ⟨p, hw, rfl, hb⟩
  · rintro ⟨p, hw, rfl, rfl⟩
    exact decode_frameOf hw rest

/-! ### Commands (R90 to R92) -/

/-- A command message decodes to an instruction exactly when it is the instruction's encoding: by the shape of the arguments
and the operation code. -/
theorem decodeCmd_eq_ok {m : CmdMsg} {i : Instr} : decodeCmd m = .ok i ↔ encode i = .cmd m := by
  constructor
  · intro h
    obtain ⟨op, ctx, args⟩ := m
    rcases args with _ | ⟨_ | _ | _, _ | ⟨_ | _ | _, _ | _⟩⟩
    all_goals fin_cases op <;> cases h <;> rfl
  · intro h
    cases i with
    | data | ackf | unknown => cases h
    | _ => cases h; rfl

theorem wellFormed_of_encode_cmd {i : Instr} {m : CmdMsg} (h : encode i = .cmd m) : i.WellFormed = true := by
  cases i with
  | data | ackf | unknown => cases h
  | _ => rfl

/-! ### A context number outside the range (R90, R289) -/

theorem State.ctx?_eq_none {s : State} {k : Nat} : s.ctx? k = none ↔ s.ctxs.length ≤ k := List.getElem?_eq_none_iff

theorem State.give_noSuchContext {k : Nat} {f : Ctx → Turn} {mark : State → State} {s : State} (h : s.ctx? k = none) :
    s.give k f mark = .fault .noSuchContext := by
  rw [State.give, h]

theorem State.receive_noSuchContext {p : Packet} {s : State} (h : s.ctx? s.cur = none) :
    s.receive p = .fault .noSuchContext := by
  rw [State.receive, State.turn, State.give_noSuchContext h]

end Sys2Proof.Machine
end

section
/-! The encodings of frames and commands, context numbers outside the range, and the reserved codes (30_encoding.md). -/

namespace Sys2Proof.Machine

open Sys2Proof

/-- Settles O1: a well-formed instruction is the row of a packet, whose frame decodes to it, or a command that its message
decodes to. -/
theorem decodeEncodeEveryInstruction : Obligations.DecodeEncodeEveryInstruction := by
  unfold Obligations.DecodeEncodeEveryInstruction
  intro i hw
  cases hm : encode i with
  | cmd m => exact ⟨decode_cmd_eq_ok.mpr ⟨decodeCmd_eq_ok.mpr hm, rfl⟩, fun _ _ hb => nomatch hb⟩
  | frame b =>
    obtain ⟨p, hp, rfl, rfl⟩ := exists_frameInstr hw hm
    refine ⟨decode_frame_eq_ok.mpr ⟨p, hp, rfl, (List.append_nil _).symm⟩, fun b rest hb => ?_⟩
    cases hb
    exact decode_frameOf hp rest

/-- Settles O2: a frame by the packet at its front, a command message by its only instruction. -/
theorem decodedMessagesEncodeBack : Obligations.DecodedMessagesEncodeBack := by
  unfold Obligations.DecodedMessagesEncodeBack
  intro m i rest h
  cases m with
  | frame b =>
    obtain ⟨p, hp, rfl, hb⟩ := decode_frame_eq_ok.mp h
    exact ⟨(wellFormed_frameInstr p).mpr hp, frameOf p, encode_frameInstr p, hb⟩
  | cmd m =>
    obtain ⟨hd, hrest⟩ := decode_cmd_eq_ok.mp h
    have he := decodeCmd_eq_ok.mp hd
    exact ⟨wellFormed_of_encode_cmd he, he, hrest⟩

/-- Settles O6: the decoder runs on the bytes and the messages. -/
theorem writtenOutMessagesDecode : Obligations.WrittenOutMessagesDecode := by
  unfold Obligations.WrittenOutMessagesDecode
  exact ⟨rfl, rfl, rfl, rfl, rfl, rfl⟩

/-- Settles O26: each of the six looks the context up first. -/
theorem unknownContextStops : Obligations.UnknownContextStops := by
  unfold Obligations.UnknownContextStops
  intro k s seq cks len b kind hk
  have hnone : s.ctx? k = none := State.ctx?_eq_none.mpr hk
  have frame (p : Packet) : State.receive p { s with cur := k } = .fault .noSuchContext :=
    State.receive_noSuchContext (s := { s with cur := k }) hnone
  refine ⟨?send, ?serve, frame _, frame _, frame _, ?host⟩
  case send => simp only [exec, execSend, hnone]
  case serve => simp only [exec, execServe, hnone]
  case host => simp only [runMove, State.takeCommand, hnone]

/-- Settles O27: of a reserved message the decoder reads the code alone, and the meaning of its row is the refusal. -/
theorem reservedCommandsAreRefused : Obligations.ReservedCommandsAreRefused := by
  unfold Obligations.ReservedCommandsAreRefused
  intro k args s
  exact ⟨⟨rfl, rfl⟩, ⟨rfl, rfl⟩, ⟨rfl, rfl⟩, ⟨rfl, rfl⟩, ⟨rfl, rfl⟩, ⟨rfl, rfl⟩⟩

end Sys2Proof.Machine
end

section
/-! SUPPORT. The CRC register as a linear function of its bits and of the bytes absorbed (R119), and the two other forms of
one step (R112, R113). -/

namespace Sys2Proof.Machine

open Sys2Proof

/-! ### Linearity (R119) -/

/-- What a step adds to the shifted register: the polynomial when a one leaves. -/
def crcFeedback (bit : Bool) : Word := if bit then crcPoly else 0#32

theorem crcFeedback_xor : ∀ a b : Bool, crcFeedback (a ^^ b) = crcFeedback a ^^^ crcFeedback b := by decide

theorem crcShift_eq (c : Word) : crcShift c = c >>> 1 ^^^ crcFeedback (c.getLsbD 0) := by
  unfold crcShift crcFeedback
  split
  · rfl
  · exact BitVec.xor_zero.symm

theorem crcShift_of_bit_zero {c : Word} (h : c.getLsbD 0 = false) : crcShift c = c >>> 1 := by
  rw [crcShift_eq, h]
  exact BitVec.xor_zero

theorem crcShift_xor (c d : Word) : crcShift (c ^^^ d) = crcShift c ^^^ crcShift d := by
  rw [crcShift_eq, crcShift_eq, crcShift_eq, BitVec.getLsbD_xor, crcFeedback_xor, BitVec.ushiftRight_xor_distrib]
  ac_rfl

theorem crcShifts_xor : ∀ (n : Nat) (c d : Word), crcShifts n (c ^^^ d) = crcShifts n c ^^^ crcShifts n d
  | 0, _, _ => rfl
  | n + 1, c, d => by simp only [crcShifts, crcShift_xor, crcShifts_xor n]

theorem crcAbsorb_xor (c d : Word) (x y : Byte) : crcAbsorb (c ^^^ d) (x ^^^ y) = crcAbsorb c x ^^^ crcAbsorb d y := by
  rw [crcAbsorb, crcAbsorb, crcAbsorb, ← crcShifts_xor, BitVec.setWidth_xor]
  congr 1
  ac_rfl

@[simp] theorem crcRun_nil (c : Word) : crcRun c [] = c := rfl

@[simp] theorem crcRun_cons (c : Word) (x : Byte) (b : Bytes) : crcRun c (x :: b) = crcRun (crcAbsorb c x) b := rfl

theorem crcRun_append (c : Word) (a b : Bytes) : crcRun c (a ++ b) = crcRun (crcRun c a) b := List.foldl_append

/-- The register after the bytes is linear in its start value and in the bytes together. -/
theorem crcRun_xorBytes {a b : Bytes} (h : a.length = b.length) (c d : Word) :
    crcRun (c ^^^ d) (xorBytes a b) = crcRun c a ^^^ crcRun d b := by
  induction a generalizing b c d with
  | nil => cases b with
    | nil => rfl
    | cons y b => cases h
  | cons x a ih => cases b with
    | nil => cases h
    | cons y b =>
      calc crcRun (c ^^^ d) (xorBytes (x :: a) (y :: b))
          = crcRun (crcAbsorb (c ^^^ d) (x ^^^ y)) (xorBytes a b) := rfl
        _ = crcRun (crcAbsorb c x) a ^^^ crcRun (crcAbsorb d y) b := by rw [crcAbsorb_xor, ih (Nat.succ.inj h)]

/-- R119, the linear part. -/
theorem crc32_xor_crc32 {a b : Bytes} (h : a.length = b.length) : crc32 a ^^^ crc32 b = crcRemainder (xorBytes a b) := by
  calc crc32 a ^^^ crc32 b
      = crcRun 0xFFFFFFFF#32 a ^^^ crcRun 0xFFFFFFFF#32 b ^^^ (0xFFFFFFFF#32 ^^^ 0xFFFFFFFF#32) := by
        unfold crc32
        ac_rfl
    _ = crcRemainder (xorBytes a b) := by
        rw [BitVec.xor_self, BitVec.xor_zero, ← crcRun_xorBytes h, BitVec.xor_self, crcRemainder]

/-! ### Shift steps that are plain shifts -/

/-- While zeros leave at the low end, the steps only shift. -/
theorem crcShifts_of_low_zero {n : Nat} {c : Word} (h : ∀ i < n, c.getLsbD i = false) : crcShifts n c = c >>> n := by
  induction n generalizing c with
  | zero => simp [crcShifts]
  | succ n ih =>
    rw [crcShifts, crcShift_of_bit_zero (h 0 n.succ_pos), ih fun i hi => ?_, ← BitVec.shiftRight_add, Nat.add_comm]
    rw [BitVec.getLsbD_ushiftRight]
    exact h _ (by omega)

theorem toNat_shiftLeft_lt {w k : Nat} {x : BitVec w} (n : Nat) (h : x.toNat < 2 ^ k) :
    (x <<< n).toNat < 2 ^ (k + n) := by
  rw [BitVec.toNat_shiftLeft, Nat.shiftLeft_eq, Nat.pow_add]
  exact (Nat.mod_le _ _).trans_lt (Nat.mul_lt_mul_of_pos_right h (Nat.two_pow_pos n))

/-- A step whose result has a zero at the top did not add the polynomial, whose top coefficient is 1: it only shifted, and
a zero left. -/
theorem crcShift_shiftLeft {c : Word} (h : (crcShift c).toNat < 2 ^ 31) : crcShift c <<< 1 = c := by
  cases hc : c.getLsbD 0 with
  | false =>
    rw [crcShift_of_bit_zero hc]
    have heven : c.toNat % 2 = 0 := by simpa [BitVec.getLsbD, Nat.testBit_zero] using hc
    bv_omega
  | true =>
    have htop : (crcShift c).getLsbD 31 = true := by
      rw [crcShift_eq, hc, BitVec.getLsbD_xor, BitVec.getLsbD_ushiftRight, BitVec.getLsbD_of_ge c _ (by decide)]
      decide
    exact absurd htop (Bool.eq_false_iff.mp (Nat.testBit_lt_two_pow h))

/-- A burst (R119): `n` steps whose result has its top `n` bits zero only shifted, and the bits that left were zeros. -/
theorem crcShifts_shiftLeft {n k : Nat} {c : Word} (hk : n + k ≤ 32) (h : (crcShifts n c).toNat < 2 ^ k) :
    crcShifts n c <<< n = c := by
  induction n generalizing c with
  | zero => exact BitVec.shiftLeft_zero _
  | succ n ih =>
    rw [crcShifts] at h ⊢
    have hshift := ih (by omega) h
    have hlt : (crcShift c).toNat < 2 ^ (k + n) := hshift ▸ toNat_shiftLeft_lt n h
    have htop : (crcShift c).toNat < 2 ^ 31 := hlt.trans_le (Nat.pow_le_pow_right Nat.two_pos (by omega))
    rw [BitVec.shiftLeft_add, hshift, crcShift_shiftLeft htop]

/-! ### Remainders (R119) -/

theorem crcAbsorb_zero_eq_zero_iff {c : Word} : crcAbsorb c 0#8 = 0#32 ↔ c = 0#32 := by
  have hshifts : crcAbsorb c 0#8 = crcShifts 8 c := congrArg (crcShifts 8) BitVec.xor_zero
  rw [hshifts]
  refine ⟨fun h => ?_, fun h => by subst h; decide⟩
  have hshift := crcShifts_shiftLeft (n := 8) (k := 0) (c := c) (by decide) (by simp [h])
  rw [← hshift, h, BitVec.zero_shiftLeft]

/-- Zero bytes do not move the register to or from zero. -/
@[simp] theorem crcRun_replicate_zero_eq_zero_iff {n : Nat} {c : Word} :
    crcRun c (List.replicate n 0#8) = 0#32 ↔ c = 0#32 := by
  induction n generalizing c with
  | zero => rfl
  | succ n ih => rw [List.replicate_succ, crcRun_cons, ih, crcAbsorb_zero_eq_zero_iff]

/-- At most four bytes clear no more of the register than they cover. -/
theorem lt_of_crcRun_eq_zero {c : Word} {d : Bytes} (hlen : d.length ≤ 4) (h : crcRun c d = 0#32) :
    c.toNat < 2 ^ (8 * d.length) := by
  induction d generalizing c with
  | nil =>
    obtain rfl : c = 0#32 := h
    decide
  | cons x d ih =>
    rw [List.length_cons] at hlen ⊢
    have hlt : (crcAbsorb c x).toNat < 2 ^ (8 * d.length) := ih (by omega) h
    have hburst : crcAbsorb c x <<< 8 = c ^^^ x.setWidth 32 := crcShifts_shiftLeft (by omega) hlt
    have hc : c = (crcAbsorb c x <<< 8) ^^^ x.setWidth 32 := by
      rw [hburst, BitVec.xor_assoc, BitVec.xor_self, BitVec.xor_zero]
    have hx : (x.setWidth 32).toNat < 2 ^ (8 * d.length + 8) := calc
      (x.setWidth 32).toNat = x.toNat := BitVec.toNat_setWidth_of_le (by decide)
      _ < 2 ^ 8 := x.isLt
      _ ≤ 2 ^ (8 * d.length + 8) := Nat.pow_le_pow_right Nat.two_pos (by omega)
    rw [hc, BitVec.toNat_xor]
    exact Nat.xor_lt_two_pow (toNat_shiftLeft_lt 8 hlt) hx

/-- R119: a burst of at most 32 bits has a remainder that is not zero. -/
theorem eq_zero_of_crcRemainder_eq_zero {d : Bytes} (hlen : d.length ≤ 4) (h : crcRemainder d = 0#32) :
    ∀ x ∈ d, x = 0#8 := by
  induction d with
  | nil => simp
  | cons x d ih =>
    rw [List.length_cons] at hlen
    have hlt : (crcAbsorb 0#32 x).toNat < 2 ^ (8 * d.length) := lt_of_crcRun_eq_zero (by omega) h
    have hburst : crcAbsorb 0#32 x <<< 8 = x.setWidth 32 :=
      (crcShifts_shiftLeft (by omega) hlt).trans BitVec.zero_xor
    obtain rfl : x = 0#8 := by bv_omega
    have hd : crcRemainder d = 0#32 := by rwa [crcRemainder, crcRun_cons, crcAbsorb_zero_eq_zero_iff.mpr rfl] at h
    exact List.forall_mem_cons.mpr ⟨rfl, ih (by omega) hd⟩

/-- Zero bytes before or after a sequence do not make its remainder zero. -/
theorem crcRemainder_padded_eq_zero_iff (m n : Nat) (d : Bytes) :
    crcRemainder (List.replicate m 0#8 ++ d ++ List.replicate n 0#8) = 0#32 ↔ crcRemainder d = 0#32 := by
  rw [crcRemainder, crcRun_append, crcRun_append, crcRun_replicate_zero_eq_zero_iff,
    crcRun_replicate_zero_eq_zero_iff.mpr rfl, crcRemainder]

/-- Replacing one byte makes a difference of one byte. -/
theorem xorBytes_set (b : Bytes) (i : Nat) (v : Byte) (h : i < b.length) :
    xorBytes (b.set i v) b =
      List.replicate i 0#8 ++ [v ^^^ b.getD i 0] ++ List.replicate (b.length - (i + 1)) 0#8 := by
  induction b generalizing i with
  | nil => cases h
  | cons x b ih => cases i with
    | zero => simp [xorBytes]
    | succ i =>
      have hi : i < b.length := Nat.lt_of_succ_lt_succ h
      calc xorBytes ((x :: b).set (i + 1) v) (x :: b)
          = (x ^^^ x) :: xorBytes (b.set i v) b := rfl
        _ = _ := by simp [ih i hi, List.replicate_succ]

/-! ### The byte-table form (R112) -/

/-- The 256 entries of the table are literals: each is compared with its eight steps. -/
theorem crcTableAt_eq : ∀ n : Byte, crcTableAt n = crcShifts 8 (n.setWidth 32) := by decide +kernel

theorem byte_ushiftRight_eight (x : Byte) : x.setWidth 32 >>> 8 = 0#32 := by bv_omega

/-- Eight steps turn the low byte into its table entry and shift the rest of the register down. -/
theorem crcShifts_eight (c : Word) : crcShifts 8 c = crcTableAt (c.setWidth 8) ^^^ c >>> 8 := by
  have hsplit : c = (c.setWidth 8).setWidth 32 ^^^ (c ^^^ (c.setWidth 8).setWidth 32) := by
    rw [BitVec.xor_comm c, ← BitVec.xor_assoc, BitVec.xor_self, BitVec.zero_xor]
  have hlow : ∀ i < 8, (c ^^^ (c.setWidth 8).setWidth 32).getLsbD i = false := fun i hi => by
    have hi32 : i < 32 := by omega
    simp [hi, hi32]
  calc crcShifts 8 c
      = crcShifts 8 ((c.setWidth 8).setWidth 32) ^^^ crcShifts 8 (c ^^^ (c.setWidth 8).setWidth 32) := by
        rw [← crcShifts_xor, ← hsplit]
    _ = crcTableAt (c.setWidth 8) ^^^ c >>> 8 := by
        rw [← crcTableAt_eq, crcShifts_of_low_zero hlow, BitVec.ushiftRight_xor_distrib, byte_ushiftRight_eight,
          BitVec.xor_zero]

theorem crcAbsorbTable_eq : crcAbsorbTable = crcAbsorb := by
  funext c x
  rw [crcAbsorb, crcShifts_eight, BitVec.ushiftRight_xor_distrib, byte_ushiftRight_eight, BitVec.xor_zero, crcAbsorbTable]

theorem crc32ByTable_eq (b : Bytes) : crc32ByTable b = crc32 b := by
  rw [crc32ByTable, crcAbsorbTable_eq, crc32, crcRun]

/-! ### The msb-first form (R113) -/

theorem reverse_xor {w : Nat} (x y : BitVec w) : (x ^^^ y).reverse = x.reverse ^^^ y.reverse :=
  BitVec.eq_of_getLsbD_eq fun i _ => by simp only [BitVec.getLsbD_reverse, BitVec.getLsbD_xor, BitVec.getMsbD_xor]

theorem reverse_reverse {w : Nat} (x : BitVec w) : x.reverse.reverse = x :=
  BitVec.eq_of_getLsbD_eq fun i _ => by rw [BitVec.getLsbD_reverse, BitVec.getMsbD_reverse]

theorem reverse_ushiftRight {w : Nat} (x : BitVec w) (n : Nat) : (x >>> n).reverse = x.reverse <<< n :=
  BitVec.eq_of_getLsbD_eq fun i hi => by
    rw [BitVec.getLsbD_reverse, BitVec.getMsbD_ushiftRight, BitVec.getLsbD_shiftLeft, BitVec.getLsbD_reverse, Bool.and_assoc]

/-- The byte enters the reversed register at its other end. -/
theorem reverse_byte (x : Byte) : (x.setWidth 32).reverse = x.reverse.setWidth 32 <<< 24 :=
  BitVec.eq_of_getLsbD_eq fun i hi => by
    rw [BitVec.getLsbD_reverse, BitVec.getMsbD_setWidth, BitVec.getLsbD_shiftLeft, BitVec.getLsbD_setWidth,
      BitVec.getLsbD_reverse, show i + 8 - 32 = i - 24 by omega]
    by_cases h : i < 24
    · simp [h, Nat.not_le.mpr h]
    · have hwidth : i - 24 < 32 := by omega
      simp [h, hi, hwidth, Nat.not_lt.mp h]

theorem crcShiftMsb_reverse (c : Word) : crcShiftMsb c.reverse = (crcShift c).reverse := by
  have hpoly : crcPoly.reverse = 0x04C11DB7#32 := by decide +kernel
  have hbit : c.reverse.getLsbD 31 = c.getLsbD 0 := BitVec.getLsbD_reverse
  unfold crcShiftMsb crcShift
  rw [hbit]
  split
  · rw [reverse_xor, reverse_ushiftRight, hpoly]
  · rw [reverse_ushiftRight]

theorem crcShiftsMsb_reverse : ∀ (n : Nat) (c : Word), crcShiftsMsb n c.reverse = (crcShifts n c).reverse
  | 0, _ => rfl
  | n + 1, c => by rw [crcShiftsMsb, crcShiftMsb_reverse, crcShiftsMsb_reverse n, crcShifts]

theorem crcAbsorbMsb_reverse (c : Word) (x : Byte) : crcAbsorbMsb c.reverse x = (crcAbsorb c x).reverse := by
  rw [crcAbsorbMsb, ← reverse_byte, ← reverse_xor, crcShiftsMsb_reverse, crcAbsorb]

theorem foldl_crcAbsorbMsb_reverse (c : Word) (b : Bytes) : b.foldl crcAbsorbMsb c.reverse = (crcRun c b).reverse := by
  induction b generalizing c with
  | nil => rfl
  | cons x b ih => rw [List.foldl_cons, crcAbsorbMsb_reverse, ih, crcRun_cons]

theorem crc32MsbFirst_eq (b : Bytes) : crc32MsbFirst b = crc32 b := by
  have hstart : (0xFFFFFFFF#32 : Word) = (0xFFFFFFFF#32 : Word).reverse := by decide +kernel
  have hrun : b.foldl crcAbsorbMsb 0xFFFFFFFF#32 = (crcRun 0xFFFFFFFF#32 b).reverse := by
    conv_lhs => rw [hstart]
    exact foldl_crcAbsorbMsb_reverse _ b
  rw [crc32MsbFirst, hrun, reverse_reverse, crc32]

/-! ### One changed byte (R118) -/

theorem verifyPacket_iff (p : Packet) : verifyPacket p = true ↔ crc32 p.payload = p.checksum := beq_iff_eq

theorem crc32_set_ne {b : Bytes} {i : Nat} {v : Byte} (hi : i < b.length) (hv : v ≠ b.getD i 0) :
    crc32 (b.set i v) ≠ crc32 b := fun h => by
  have hrem : crcRemainder (xorBytes (b.set i v) b) = 0#32 := by
    rw [← crc32_xor_crc32 List.length_set, h, BitVec.xor_self]
  rw [xorBytes_set b i v hi, crcRemainder_padded_eq_zero_iff] at hrem
  have hzero := eq_zero_of_crcRemainder_eq_zero (d := [v ^^^ b.getD i 0]) (by simp) hrem _ List.mem_cons_self
  exact hv (BitVec.xor_eq_zero_iff.mp hzero)

end Sys2Proof.Machine
end

section
/-! The checksum (40_crc32.md) and its two commands. -/

namespace Sys2Proof.Machine

open Sys2Proof

/-- Settles O7: the table holds what eight steps make of a byte, and the msb-first register is the reversed one. -/
theorem crcFormsAgree : Obligations.CrcFormsAgree := by
  unfold Obligations.CrcFormsAgree
  exact ⟨crcTableAt_eq, crc32ByTable_eq, crc32MsbFirst_eq⟩

/-- Settles O8: over no bytes the register keeps its start value. -/
theorem emptyChecksumIsZero : Obligations.EmptyChecksumIsZero := by
  unfold Obligations.EmptyChecksumIsZero
  have hnil : crc32 [] = 0x00000000#32 := by rw [crc32, crcRun_nil, BitVec.xor_self]
  exact ⟨hnil, fun _ => hnil⟩

/-- Settles O9: the difference is a burst of one byte. -/
theorem oneChangedByteIsDetected : Obligations.OneChangedByteIsDetected := by
  unfold Obligations.OneChangedByteIsDetected
  refine ⟨fun p h => (verifyPacket_iff p).mpr h.symm, fun b i v => crc32_set_ne, fun p i v h hi hv => ?_⟩
  rw [Bool.eq_false_iff, Ne, verifyPacket_iff, h]
  exact crc32_set_ne hi hv

/-- Settles O10: the register is linear, and a burst of at most four bytes cannot clear it. -/
theorem crcDifferenceIsRemainder : Obligations.CrcDifferenceIsRemainder := by
  unfold Obligations.CrcDifferenceIsRemainder
  refine ⟨fun a b => crc32_xor_crc32, fun m n d hlen hd hzero => ?_⟩
  obtain ⟨x, hx, hne⟩ := hd
  exact hne (eq_zero_of_crcRemainder_eq_zero hlen ((crcRemainder_padded_eq_zero_iff m n d).mp hzero) x hx)

/-- Settles O16: the command is an answer that touches `crc_reg`. -/
theorem crc32Answers : Obligations.Crc32Answers := by
  unfold Obligations.Crc32Answers
  intro k b s c hc
  exact State.answer_answered [.crc] (.word (crc32 b)) hc

/-- Settles O17: the command is an answer that touches `crc_reg`, and its result is the comparison. -/
theorem verifyAnswers : Obligations.VerifyAnswers := by
  unfold Obligations.VerifyAnswers
  intro k p s c hc
  have hresult : verifyPacket p = decide (crc32 p.payload = p.checksum) :=
    Bool.eq_iff_iff.mpr ((verifyPacket_iff p).trans decide_eq_true_iff.symm)
  exact hresult ▸ State.answer_answered [.crc] (.bool (verifyPacket p)) hc

end Sys2Proof.Machine
end

section
/-! SUPPORT. The cipher unit: the key schedule and the rounds by their words and round keys, cipher feedback and its inverse,
and what ENCRYPT and DECRYPT do at a context, one lemma per way through each. -/

namespace Sys2Proof.Machine

open Sys2Proof

/-! ### The key schedule (R141) -/

/-- The four columns of a block, in order (R132). -/
def blockCols (k : Block) : List Col := [k.c0, k.c1, k.c2, k.c3]

/-- Word `4 * j + r` of a run of blocks is column `r` of block `j`. -/
theorem getD_flatMap_blockCols {r : Nat} (hr : r < 4) : ∀ (ks : List Block) (j : Nat), j < ks.length →
    (ks.flatMap blockCols).getD (4 * j + r) default = (blockCols (ks.getD j default)).getD r default
  | k :: ks, 0, _ => by
    rw [List.flatMap_cons, Nat.mul_zero, Nat.zero_add]
    exact List.getD_append _ _ _ _ hr
  | k :: ks, j + 1, h => by
    have hlen : (blockCols k).length = 4 := rfl
    rw [List.flatMap_cons, List.getD_append_right _ _ _ _ (by omega), hlen, show 4 * (j + 1) + r - 4 = 4 * j + r by omega,
      List.getD_cons_succ]
    exact getD_flatMap_blockCols hr ks j (Nat.lt_of_succ_lt_succ h)

theorem roundKeysFrom_length : ∀ (rs : List Byte) (k : Block), (roundKeysFrom rs k).length = rs.length + 1
  | [], _ => rfl
  | _ :: rs, _ => congrArg (· + 1) (roundKeysFrom_length rs _)

theorem roundKeysFrom_getD_zero (rs : List Byte) (k : Block) : (roundKeysFrom rs k).getD 0 default = k := by
  cases rs <;> rfl

/-- Each round key is made of the one before it and its round constant. -/
theorem roundKeysFrom_getD_succ : ∀ (rs : List Byte) (k : Block) (j : Nat), j < rs.length →
    (roundKeysFrom rs k).getD (j + 1) default = nextRoundKey (rs.getD j 0) ((roundKeysFrom rs k).getD j default)
  | _ :: rs, _, 0, _ => roundKeysFrom_getD_zero rs _
  | _ :: rs, _, j + 1, h => roundKeysFrom_getD_succ rs _ j (Nat.lt_of_succ_lt_succ h)

theorem roundKeys_length (key : Block) : (roundKeys key).length = 11 := roundKeysFrom_length rcons key

/-- The words `W[0..43]` of the key schedule. -/
def keyWords (key : Block) : List Col := (roundKeys key).flatMap blockCols

theorem keyWords_getD {key : Block} {j r : Nat} (hj : j < 11) (hr : r < 4) :
    (keyWords key).getD (4 * j + r) default = (blockCols ((roundKeys key).getD j default)).getD r default :=
  getD_flatMap_blockCols hr _ j (by rwa [roundKeys_length])

/-- The recurrence at a multiple of four: the first column of a round key. -/
theorem keyWords_recurrence_first {key : Block} {j : Nat} (hj : j < 10) :
    (keyWords key).getD (4 * (j + 1)) default =
      xorCol ((keyWords key).getD (4 * j) default)
        (xorCol (subCol (rotCol ((keyWords key).getD (4 * j + 3) default))) ⟨rcons.getD j 0, 0, 0, 0⟩) := by
  have hnew := keyWords_getD (key := key) (j := j + 1) (r := 0) (by omega) (by omega)
  have hold := keyWords_getD (key := key) (j := j) (r := 0) (by omega) (by omega)
  rw [Nat.add_zero] at hnew hold
  rw [hnew, hold, keyWords_getD (by omega) (by omega), roundKeys, roundKeysFrom_getD_succ rcons key j hj]
  rfl

/-- The recurrence elsewhere: the other columns of a round key. -/
theorem keyWords_recurrence_rest {key : Block} {j r : Nat} (hj : j < 10) (hr : r < 3) :
    (keyWords key).getD (4 * (j + 1) + (r + 1)) default =
      xorCol ((keyWords key).getD (4 * j + (r + 1)) default) ((keyWords key).getD (4 * (j + 1) + r) default) := by
  rw [keyWords_getD (by omega) (by omega), keyWords_getD (by omega) (by omega), keyWords_getD (by omega) (by omega),
    roundKeys, roundKeysFrom_getD_succ rcons key j hj]
  match r, hr with
  | 0, _ => rfl
  | 1, _ => rfl
  | 2, _ => rfl

/-- R141. -/
theorem keyWords_recurrence (key : Block) {i : Nat} (h4 : 4 ≤ i) (h44 : i < 44) :
    (keyWords key).getD i default =
      xorCol ((keyWords key).getD (i - 4) default)
        (if i % 4 = 0 then
          xorCol (subCol (rotCol ((keyWords key).getD (i - 1) default))) ⟨rcons.getD (i / 4 - 1) 0, 0, 0, 0⟩
        else (keyWords key).getD (i - 1) default) := by
  obtain ⟨j, hi | ⟨r, hr, hi⟩⟩ : ∃ j, i = 4 * (j + 1) ∨ ∃ r < 3, i = 4 * (j + 1) + (r + 1) := by
    refine ⟨i / 4 - 1, ?_⟩
    obtain hfirst | hrest := Nat.eq_zero_or_pos (i % 4)
    · exact .inl (by omega)
    · exact .inr ⟨i % 4 - 1, by omega, by omega⟩
  · rw [if_pos (by omega), show i - 1 = 4 * j + 3 by omega, show i - 4 = 4 * j by omega, show i / 4 - 1 = j by omega, hi]
    exact keyWords_recurrence_first (by omega)
  · rw [if_neg (by omega), show i - 1 = 4 * (j + 1) + r by omega, show i - 4 = 4 * j + (r + 1) by omega, hi]
    exact keyWords_recurrence_rest (by omega) hr

/-! ### The rounds (R142) -/

/-- A round with `MixColumns`. -/
def fullRound (s k : Block) : Block := addRoundKey (mixColumns (shiftRows (subBytes s))) k

/-- The rounds are full ones and a last one without `MixColumns`. -/
theorem cipherRounds_append_singleton (last : Block) : ∀ (ks : List Block) (s : Block),
    cipherRounds (ks ++ [last]) s = addRoundKey (shiftRows (subBytes (ks.foldl fullRound s))) last
  | [], _ => rfl
  | [_], _ => rfl
  | k :: k' :: ks, s => cipherRounds_append_singleton last (k' :: ks) (fullRound s k)

theorem blockEncOf_aes128 {P : Params} (h : P.blockEnc = .aes128) (key : Block) : blockEncOf P key = blockEnc key := by
  rw [blockEncOf, h]

theorem blockEncOf_congr {P Q : Params} (h : P.blockEnc = Q.blockEnc) : blockEncOf P = blockEncOf Q := by
  funext key
  rw [blockEncOf, h, ← blockEncOf]

/-! ### Cipher feedback (R146 to R149) -/

/-- The exclusive or with the same bytes undoes itself. -/
theorem xorBytes_xorBytes_cancel : ∀ {p k : Bytes}, p.length ≤ k.length → xorBytes (xorBytes p k) k = p
  | [], _, _ => by simp [xorBytes]
  | x :: p, y :: k, h => by
    have htail : xorBytes (xorBytes p k) k = p := xorBytes_xorBytes_cancel (Nat.le_of_succ_le_succ h)
    have hhead : x ^^^ y ^^^ y = x := by rw [BitVec.xor_assoc, BitVec.xor_self, BitVec.xor_zero]
    exact congrArg₂ List.cons hhead htail

/-- A block of plaintext or ciphertext, shorter at the end, combined with the keystream block (R146). -/
def feedbackBlock (enc : Block → Block) (fb : Block) (p : Bytes) : Bytes := xorBytes (p.take 16) (blockToBytes (enc fb))

theorem feedbackBlock_length (enc : Block → Block) (fb : Block) (p : Bytes) :
    (feedbackBlock enc fb p).length = min 16 p.length := by
  simp [feedbackBlock]

theorem cfbEncBlocks_succ (enc : Block → Block) (n : Nat) (fb : Block) (p : Bytes) :
    cfbEncBlocks enc (n + 1) fb p =
      feedbackBlock enc fb p ++ cfbEncBlocks enc n (blockOfBytes (feedbackBlock enc fb p)) (p.drop 16) := rfl

theorem cfbDecBlocks_succ (enc : Block → Block) (n : Nat) (fb : Block) (c : Bytes) :
    cfbDecBlocks enc (n + 1) fb c =
      feedbackBlock enc fb c ++ cfbDecBlocks enc n (blockOfBytes (c.take 16)) (c.drop 16) := rfl

/-- A ciphertext block that is not full has nothing after it: the first sixteen bytes are the first block. -/
theorem cfbEncBlocks_succ_split (enc : Block → Block) (n : Nat) (fb : Block) (p : Bytes) :
    (cfbEncBlocks enc (n + 1) fb p).take 16 = feedbackBlock enc fb p ∧
      (cfbEncBlocks enc (n + 1) fb p).drop 16 =
        cfbEncBlocks enc n (blockOfBytes (feedbackBlock enc fb p)) (p.drop 16) := by
  have hlen := feedbackBlock_length enc fb p
  rw [cfbEncBlocks_succ]
  obtain hfull | hshort := Nat.le_total 16 p.length
  · exact ⟨List.take_left' (by omega), List.drop_left' (by omega)⟩
  · have hrest : cfbEncBlocks enc n (blockOfBytes (feedbackBlock enc fb p)) (p.drop 16) = [] := by
      rw [← List.length_eq_zero_iff, cfbEncBlocks_length, List.length_drop]
      omega
    rw [hrest, List.append_nil]
    exact ⟨List.take_of_length_le (by omega), List.drop_of_length_le (by omega)⟩

/-- `CfbDec` feeds back the ciphertext blocks that `CfbEnc` made, so its keystream is the same. -/
theorem cfbDecBlocks_cfbEncBlocks (enc : Block → Block) : ∀ (n : Nat) (fb : Block) (p : Bytes), p.length ≤ 16 * n →
    cfbDecBlocks enc n fb (cfbEncBlocks enc n fb p) = p
  | 0, _, p, h => (List.eq_nil_of_length_eq_zero (by omega : p.length = 0)).symm
  | n + 1, fb, p, h => by
    obtain ⟨htake, hdrop⟩ := cfbEncBlocks_succ_split enc n fb p
    have hblock : xorBytes (feedbackBlock enc fb p) (blockToBytes (enc fb)) = p.take 16 :=
      xorBytes_xorBytes_cancel (List.length_take_le 16 p)
    rw [cfbDecBlocks_succ, feedbackBlock, htake, hdrop, hblock,
      cfbDecBlocks_cfbEncBlocks enc n _ _ (by rw [List.length_drop]; omega), List.take_append_drop]

theorem le_blockCount (n : Nat) : n ≤ 16 * blockCount n := by
  rw [blockCount, blockBytes]
  omega

/-- R149. -/
theorem cfbDec_cfbEnc (enc : Block → Block) (iv : Block) (p : Bytes) : cfbDec enc iv (cfbEnc enc iv p) = p := by
  rw [cfbDec, cfbEnc_length, cfbEnc]
  exact cfbDecBlocks_cfbEncBlocks enc _ iv p (le_blockCount p.length)

/-! ### The results of ENCRYPT and DECRYPT (R150 to R154) -/

/-- The vector is the first sixteen bytes of the result. -/
theorem blockOfBytes_sealBytes (enc : Block → Block) (iv : Block) (p : Bytes) :
    blockOfBytes (sealBytes enc iv p) = iv := rfl

theorem openBytes_short (enc : Block → Block) {d : Bytes} (h : d.length < 16) :
    openBytes enc d = .error .shortCiphertext := if_pos h

theorem openBytes_long (enc : Block → Block) {d : Bytes} (h : 16 ≤ d.length) :
    openBytes enc d = .ok (cfbDec enc (blockOfBytes (d.take 16)) (d.drop 16)) := if_neg (Nat.not_lt.mpr h)

/-- R153. -/
theorem openBytes_sealBytes (enc : Block → Block) (iv : Block) (p : Bytes) : openBytes enc (sealBytes enc iv p) = .ok p := by
  have htake : (sealBytes enc iv p).take 16 = blockToBytes iv := List.take_left' (blockToBytes_length iv)
  have hdrop : (sealBytes enc iv p).drop 16 = cfbEnc enc iv p := List.drop_left' (blockToBytes_length iv)
  have hiv : blockOfBytes (blockToBytes iv) = iv := rfl
  rw [openBytes_long enc (by rw [sealBytes_length]; omega), htake, hdrop, hiv, cfbDec_cfbEnc]

/-! ### ENCRYPT and DECRYPT at a context -/

theorem Ctx.encrypt_noKey {P : Params} {p : Bytes} {c : Ctx} :
    c.encrypt P none p = .error (.refuses .keyNotLoaded) := rfl

theorem Ctx.encrypt_waits {P : Params} {key : Block} {p : Bytes} {c : Ctx} (h : c.rngIn = []) :
    c.encrypt P (some key) p = .error .waits := by
  simp only [Ctx.encrypt, Ctx.rngDraw, h]

theorem Ctx.encrypt_rngErr {P : Params} {key : Block} {p : Bytes} {c : Ctx} {rs : List RngMsg}
    (h : c.rngIn = .rngErr :: rs) :
    c.encrypt P (some key) p = .ok ({ c with rngIn := rs }.respond (.err .rngFailure)) := by
  simp only [Ctx.encrypt, Ctx.rngDraw, h]

theorem Ctx.encrypt_ok {P : Params} {key : Block} {p : Bytes} {c : Ctx} {iv : Block} {rs : List RngMsg}
    (h : c.rngIn = .ok iv :: rs) :
    c.encrypt P (some key) p =
      .ok (({ c with rngIn := rs }.touch [.cipher]).respond (.bytes (sealBytes (blockEncOf P key) iv p))) := by
  simp only [Ctx.encrypt, Ctx.rngDraw, h]

theorem Ctx.decrypt_noKey {P : Params} {d : Bytes} {c : Ctx} :
    c.decrypt P none d = .error (.refuses .keyNotLoaded) := rfl

theorem Ctx.decrypt_error {P : Params} {key : Block} {d : Bytes} {e : ErrCode} {c : Ctx}
    (h : openBytes (blockEncOf P key) d = .error e) : c.decrypt P (some key) d = .ok (c.respond (.err e)) := by
  simp only [Ctx.decrypt, h]

theorem Ctx.decrypt_ok {P : Params} {key : Block} {d p : Bytes} {c : Ctx} (h : openBytes (blockEncOf P key) d = .ok p) :
    c.decrypt P (some key) d = .ok ((c.touch [.cipher]).respond (.bytes p)) := by
  simp only [Ctx.decrypt, h]

/-! ### The commands -/

/-- The answer to the command at the head of `CMD`, of a context that has kept what it shows and its inputs but for the random
answers. -/
theorem Ctx.Became.respond {c c1 : Ctx} {rng : List RngMsg} {regs : List WorkReg} (r : Response)
    (h : c.Became c.view { c.inputs with rngIn := rng } regs c1) :
    c.Became { c.view with rsp := c.rsp ++ [r] } { c.inputs with cmdIn := c.cmdIn.tail, rngIn := rng } regs
      (c1.respond r) := by
  obtain ⟨hview, hinputs, hwork⟩ := h
  exact ⟨congrArg (fun v : Ctx.View => { v with rsp := v.rsp ++ [r] }) hview,
    congrArg (fun i : Ctx.Inputs => { i with cmdIn := i.cmdIn.tail }) hinputs, hwork⟩

theorem Ctx.became_draw_touch (c : Ctx) (rng : List RngMsg) (regs : List WorkReg) :
    c.Became c.view { c.inputs with rngIn := rng } regs ({ c with rngIn := rng }.touch regs) :=
  ⟨rfl, rfl, Work.touch_keepsBut regs c.work⟩

theorem Ctx.became_draw (c : Ctx) (rng : List RngMsg) :
    c.Became c.view { c.inputs with rngIn := rng } [] { c with rngIn := rng } :=
  ⟨rfl, rfl, .refl [] c.work⟩

/-- A command that is taken at a context and answers leaves everything else. -/
theorem State.perform_answered {f : Ctx → Turn} {s : State} {c c1 : Ctx} {r : Response} {rng : List RngMsg}
    {regs : List WorkReg} (hc : s.ctx? s.cur = some c) (hf : f c = .ok (c1.respond r))
    (h : c.Became c.view { c.inputs with rngIn := rng } regs c1) :
    ∃ t, s.perform f = .next t ∧ State.Answered c r rng regs s t :=
  ⟨_, State.perform_ok hc hf, rfl, State.setCtx_onlyCtx _ { s with started := true }, _,
    State.ctx?_setCtx_self (s := { s with started := true }) hc, h.respond r⟩

/-- What stands on `RSP` after an answer. -/
theorem State.Answered.rsp {c : Ctx} {r : Response} {rng : List RngMsg} {regs : List WorkReg} {s t : State}
    (h : State.Answered c r rng regs s t) : ∃ c', t.ctx? s.cur = some c' ∧ c'.rsp = c.rsp ++ [r] := by
  obtain ⟨-, -, c', hc', hview, -, -⟩ := h
  exact ⟨c', hc', congrArg Ctx.View.rsp hview⟩

section

variable {s : State} {c : Ctx}

/-- ENCRYPT by the key that it finds. -/
theorem exec_encrypt (k : Nat) (p : Bytes) {key : Option Block} (h : s.cipherKey = key) :
    exec (.encrypt k p) s = s.perform (Ctx.encrypt s.params key p) := h ▸ rfl

/-- DECRYPT by the key that it finds. -/
theorem exec_decrypt (k : Nat) (d : Bytes) {key : Option Block} (h : s.cipherKey = key) :
    exec (.decrypt k d) s = s.perform (Ctx.decrypt s.params key d) := h ▸ rfl

theorem exec_encrypt_ok (k : Nat) (p : Bytes) {iv : Block} {rs : List RngMsg} (hc : s.ctx? s.cur = some c)
    (hk : s.keyLoaded = true) (hr : c.rngIn = .ok iv :: rs) :
    ∃ t, exec (.encrypt k p) s = .next t ∧
      State.Answered c (.bytes (sealBytes (blockEncOf s.params s.key) iv p)) rs [.cipher] s t := by
  rw [exec_encrypt k p (State.cipherKey_loaded hk)]
  exact State.perform_answered hc (Ctx.encrypt_ok hr) (c.became_draw_touch rs [.cipher])

theorem exec_decrypt_ok (k : Nat) {d p : Bytes} (hc : s.ctx? s.cur = some c) (hk : s.keyLoaded = true)
    (ho : openBytes (blockEncOf s.params s.key) d = .ok p) :
    ∃ t, exec (.decrypt k d) s = .next t ∧ State.Answered c (.bytes p) c.rngIn [.cipher] s t := by
  rw [exec_decrypt k d (State.cipherKey_loaded hk)]
  exact State.perform_answered hc (Ctx.decrypt_ok ho) (c.became_draw_touch c.rngIn [.cipher])

end

end Sys2Proof.Machine
end

section
/-! The cipher unit (41_cipher.md) and its two commands. -/

namespace Sys2Proof.Machine

open Sys2Proof

/-- Settles O13: decryption combines each ciphertext block with the keystream block that made it. -/
theorem cfbRoundTrip : Obligations.CfbRoundTrip := by
  unfold Obligations.CfbRoundTrip
  exact fun enc iv p => ⟨cfbEnc_length enc iv p, rfl, cfbDec_cfbEnc enc iv p⟩

/-- Settles O14: ENCRYPT answers the sealed plaintext, which opens under the same block function. -/
theorem decryptUndoesEncrypt : Obligations.DecryptUndoesEncrypt := by
  unfold Obligations.DecryptUndoesEncrypt
  intro j k p s c iv rs hc hk hr
  obtain ⟨s', hs', hans⟩ := exec_encrypt_ok j p hc hk hr
  obtain ⟨c', hc', hrsp⟩ := hans.rsp
  refine ⟨s', c', _, hs', hc', hrsp, rfl, fun t e hkey hblock htk he => ?_⟩
  have hopen : openBytes (blockEncOf t.params t.key) (sealBytes (blockEncOf s.params s.key) iv p) = .ok p := by
    rw [blockEncOf_congr hblock, hkey]
    exact openBytes_sealBytes _ iv p
  obtain ⟨t', ht', hans'⟩ := exec_decrypt_ok k he htk hopen
  obtain ⟨e', he', hrsp'⟩ := hans'.rsp
  exact ⟨t', e', ht', he', hrsp'⟩

/-- Settles O15: the vector is read back from the result. -/
theorem distinctVectorsDistinctResults : Obligations.DistinctVectorsDistinctResults := by
  unfold Obligations.DistinctVectorsDistinctResults
  intro enc iv iv' p hne heq
  have hiv := congrArg blockOfBytes heq
  rw [blockOfBytes_sealBytes, blockOfBytes_sealBytes] at hiv
  exact hne hiv

/-- Settles O11: the words of a round key are made of the round key before it, and the example is computed. -/
theorem keyExpansion : Obligations.KeyExpansion := by
  unfold Obligations.KeyExpansion
  exact ⟨fun key => ⟨roundKeys_length key, rfl, rfl, fun _ => keyWords_recurrence key⟩, by decide +kernel,
    by decide +kernel⟩

/-- Settles O12: the rounds over the ten round keys after the first are nine full ones and the last. -/
theorem blockCipherRounds : Obligations.BlockCipherRounds := by
  unfold Obligations.BlockCipherRounds
  refine ⟨fun P key h => blockEncOf_aes128 h key, fun key x => ?_, by decide +kernel, by decide +kernel⟩
  have hkeys : (roundKeys key).tail =
      [1, 2, 3, 4, 5, 6, 7, 8, 9].map (fun j => (roundKeys key).getD j default) ++ [(roundKeys key).getD 10 default] := rfl
  rw [blockEnc, hkeys, cipherRounds_append_singleton, List.foldl_map]
  rfl

/-- Settles O18: by what the random source has answered, once `KEY` is loaded. -/
theorem encryptAnswers : Obligations.EncryptAnswers := by
  unfold Obligations.EncryptAnswers
  intro k p s c hc
  refine ⟨fun hk => ⟨fun iv rs => exec_encrypt_ok k p hc hk, fun rs hr => ?_, fun hr => ?_⟩, fun hk => ?_⟩
  · rw [exec_encrypt k p (State.cipherKey_loaded hk)]
    exact State.perform_answered hc (Ctx.encrypt_rngErr hr) (c.became_draw rs)
  · rw [exec_encrypt k p (State.cipherKey_loaded hk)]
    exact State.perform_waits hc (Ctx.encrypt_waits hr)
  · rw [exec_encrypt k p (State.cipherKey_notLoaded hk)]
    exact State.perform_refuses hc Ctx.encrypt_noKey

/-- Settles O19: by the length of the ciphertext, once `KEY` is loaded. -/
theorem decryptAnswers : Obligations.DecryptAnswers := by
  unfold Obligations.DecryptAnswers
  intro k d s c hc
  refine ⟨fun hk hd => ?_, fun hk hd => exec_decrypt_ok k hc hk (openBytes_long _ hd), fun hk => ?_⟩
  · rw [exec_decrypt k d (State.cipherKey_loaded hk)]
    exact State.perform_answered hc (Ctx.decrypt_error (openBytes_short _ hd)) (c.became_draw c.rngIn)
  · rw [exec_decrypt k d (State.cipherKey_notLoaded hk)]
    exact State.perform_refuses hc Ctx.decrypt_noKey

end Sys2Proof.Machine
end

section
/-! SUPPORT. The codec: what a decoded frame and the packet in it say of each other, DECODE by the offsets of its input, and
what ENCODE, DECODE, MKDATA and MKACK do at a context, one lemma per way through each. -/

namespace Sys2Proof.Machine

open Sys2Proof

/-! ### The encoder (R172) -/

theorem payload_length_le {p : Packet} (h : p.WellFormed) : p.payload.length ≤ 65535 := by
  have := p.payloadLength.isLt
  omega

theorem encodePacket_oversize {p : Packet} (h : 65535 < p.payload.length) :
    encodePacket p = .error .oversizePayload := if_pos h

/-- The length that the encoder writes is that of the payload (R172, D23). -/
def withPayloadLength (p : Packet) : Packet := { p with payloadLength := lenField p.payload.length }

theorem withPayloadLength_wellFormed {p : Packet} (h : p.payload.length ≤ 65535) : (withPayloadLength p).WellFormed :=
  (Nat.mod_eq_of_lt (Nat.lt_succ_of_le h)).symm

theorem withPayloadLength_of_wellFormed {p : Packet} (h : p.WellFormed) : withPayloadLength p = p := by
  rw [withPayloadLength, lenField, h, BitVec.ofNat_toNat, BitVec.setWidth_eq]

/-- What the encoder writes is the frame of a well-formed packet. -/
theorem encodePacket_eq_ok {p : Packet} {f : Bytes} :
    encodePacket p = .ok f ↔ p.payload.length ≤ 65535 ∧ f = frameOf (withPayloadLength p) := by
  obtain hover | hfit := Nat.lt_or_ge 65535 p.payload.length
  · simp [encodePacket_oversize hover, hover]
  · rw [encodePacket_ok hfit, Except.ok.injEq, and_iff_right hfit, eq_comm]
    rfl

/-- A well-formed packet is written as it stands. -/
theorem encodePacket_wellFormed {p : Packet} (h : p.WellFormed) : encodePacket p = .ok (frameOf p) :=
  encodePacket_eq_ok.mpr ⟨payload_length_le h, by rw [withPayloadLength_of_wellFormed h]⟩

/-! ### The decoder and the encoder (R173, R180, R181) -/

/-- The decoder reads back a whole frame. -/
theorem decodePacket_frameOf_self {p : Packet} (h : p.WellFormed) :
    decodePacket (frameOf p) = .ok (p, (frameOf p).length) := by
  have hd := decodePacket_frameOf p [] h
  rwa [List.append_nil, ← frameOf_length] at hd

/-- A frame is the bytes that its decoding takes. -/
theorem frameOf_eq_take {b : Bytes} {p : Packet} {n : Nat} (h : decodePacket b = .ok (p, n)) : frameOf p = b.take n := by
  obtain ⟨-, hn, hb⟩ := decodePacket_ok h
  rw [hb]
  exact (List.take_left' (by rw [frameOf_length, hn])).symm

theorem frameOf_injective {p q : Packet} (hp : p.WellFormed) (hq : q.WellFormed) (h : frameOf p = frameOf q) : p = q := by
  have hdec := decodePacket_frameOf_self hp
  rw [h, decodePacket_frameOf_self hq] at hdec
  exact congrArg Prod.fst (Except.ok.inj hdec).symm

/-- Surplus bytes do not change what is decoded (R175). -/
theorem decodePacket_append {b : Bytes} {p : Packet} {n : Nat} (h : decodePacket b = .ok (p, n)) (rest : Bytes) :
    decodePacket (b ++ rest) = .ok (p, n) := by
  obtain ⟨hw, hn, hb⟩ := decodePacket_ok h
  rw [hb, List.append_assoc, hn]
  exact decodePacket_frameOf p _ hw

/-- A proper prefix of a frame does not decode: what it decoded to would be decoded from the frame too, which takes all of
its bytes. -/
theorem decodePacket_take_frameOf {p : Packet} {n : Nat} (h : p.WellFormed) (hn : n < (frameOf p).length) :
    ∃ e, decodePacket ((frameOf p).take n) = .error e := by
  cases hd : decodePacket ((frameOf p).take n) with
  | error e => exact ⟨e, rfl⟩
  | ok q =>
    obtain ⟨q, m⟩ := q
    have hwhole := decodePacket_append hd ((frameOf p).drop n)
    rw [List.take_append_drop, decodePacket_frameOf_self h] at hwhole
    have hm : (frameOf p).length = m := congrArg Prod.snd (Except.ok.inj hwhole)
    obtain ⟨-, hle, -⟩ := decodePacket_consumed hd
    rw [List.length_take] at hle
    omega

/-! ### The decoder by the offsets of its input (R67, R174) -/

/-- The payload length that a header declares, at offsets 9 and 10. -/
def declaredLength (b : Bytes) : Nat := (unbe16 (b.getD 9 0) (b.getD 10 0)).toNat

/-- The packet that stands at the front of a byte sequence. -/
def packetAt (b : Bytes) : Packet where
  kind := b.getD 0 0
  sequenceNumber := unbe32 (b.getD 1 0) (b.getD 2 0) (b.getD 3 0) (b.getD 4 0)
  checksum := unbe32 (b.getD 5 0) (b.getD 6 0) (b.getD 7 0) (b.getD 8 0)
  payloadLength := unbe16 (b.getD 9 0) (b.getD 10 0)
  payload := (b.drop 11).take (declaredLength b)

theorem decodePacket_shortHeader {b : Bytes} (h : b.length < 11) : decodePacket b = .error .shortHeader := by
  unfold decodePacket
  split
  · simp only [List.length_cons] at h
    omega
  · rfl

/-- From eleven bytes on, the decoder compares the length with the one declared. -/
theorem decodePacket_header : ∀ {b : Bytes}, 11 ≤ b.length →
    decodePacket b =
      if (b.drop 11).length < declaredLength b then .error .truncatedPayload
      else .ok (packetAt b, 11 + declaredLength b)
  | _ :: _ :: _ :: _ :: _ :: _ :: _ :: _ :: _ :: _ :: _ :: _, _ => rfl

theorem decodePacket_truncatedPayload {b : Bytes} (h11 : 11 ≤ b.length) (h : b.length < 11 + declaredLength b) :
    decodePacket b = .error .truncatedPayload := by
  rw [decodePacket_header h11, if_pos (by rw [List.length_drop]; omega)]

theorem decodePacket_whole {b : Bytes} (h : 11 + declaredLength b ≤ b.length) :
    decodePacket b = .ok (packetAt b, 11 + declaredLength b) := by
  rw [decodePacket_header (by omega), if_neg (by rw [List.length_drop]; omega)]

/-- The decoder fails exactly on input shorter than a header and the payload it declares (R181). -/
theorem exists_decodePacket_eq_error {b : Bytes} :
    (∃ e, decodePacket b = .error e) ↔ b.length < 11 ∨ b.length < 11 + declaredLength b := by
  constructor
  · rintro ⟨e, he⟩
    by_contra hlong
    rw [decodePacket_whole (by omega)] at he
    cases he
  · intro hshort
    obtain h11 | h11 := Nat.lt_or_ge b.length 11
    · exact ⟨_, decodePacket_shortHeader h11⟩
    · exact ⟨_, decodePacket_truncatedPayload h11 (by omega)⟩

/-! ### The packet builders (R176, R177) -/

theorem makeData_oversize {seq : Word} {b : Bytes} (h : 65535 < b.length) :
    makeData seq b = .error .oversizePayload := if_pos h

theorem makeAck_eq (seq : Word) :
    makeAck seq =
      { kind := 0x02#8, sequenceNumber := seq, checksum := 0x00000000#32, payloadLength := 0#16, payload := [] } := by
  obtain ⟨hnil, -⟩ := emptyChecksumIsZero
  rw [makeAck, hnil]
  rfl

/-! ### The commands -/

section

variable {s : State} {c : Ctx}

theorem exec_encode_error (k : Nat) {p : Packet} {e : FramingError} (hc : s.ctx? s.cur = some c)
    (h : encodePacket p = .error e) :
    ∃ t, exec (.encode k p) s = .next t ∧ State.Answered c (.err (framingErr e)) c.rngIn [] s t := by
  simp only [exec, execEncode, h]
  exact State.reply_answered _ hc

theorem exec_encode_ok (k : Nat) {p : Packet} {f : Bytes} (hc : s.ctx? s.cur = some c) (h : encodePacket p = .ok f) :
    ∃ t, exec (.encode k p) s = .next t ∧ State.Answered c (.bytes f) c.rngIn [] s t := by
  simp only [exec, execEncode, h]
  exact State.reply_answered _ hc

theorem exec_decode_error (k : Nat) {b : Bytes} {e : FramingError} (hc : s.ctx? s.cur = some c)
    (h : decodePacket b = .error e) :
    ∃ t, exec (.decode k b) s = .next t ∧ State.Answered c (.err (framingErr e)) c.rngIn [] s t := by
  simp only [exec, execDecode, h]
  exact State.reply_answered _ hc

theorem exec_decode_ok (k : Nat) {b : Bytes} {p : Packet} {n : Nat} (hc : s.ctx? s.cur = some c)
    (h : decodePacket b = .ok (p, n)) :
    ∃ t, exec (.decode k b) s = .next t ∧ State.Answered c (.decoded p n) c.rngIn [.pk] s t := by
  simp only [exec, execDecode, h]
  exact State.answer_answered _ _ hc

theorem exec_mkdata_error (k : Nat) {seq : Word} {b : Bytes} {e : FramingError} (hc : s.ctx? s.cur = some c)
    (h : makeData seq b = .error e) :
    ∃ t, exec (.mkdata k seq b) s = .next t ∧ State.Answered c (.err (framingErr e)) c.rngIn [] s t := by
  simp only [exec, execMkdata, h]
  exact State.reply_answered _ hc

theorem exec_mkdata_ok (k : Nat) {seq : Word} {b : Bytes} {p : Packet} (hc : s.ctx? s.cur = some c)
    (h : makeData seq b = .ok p) :
    ∃ t, exec (.mkdata k seq b) s = .next t ∧ State.Answered c (.packet p) c.rngIn [.crc, .pk] s t := by
  simp only [exec, execMkdata, h]
  exact State.answer_answered _ _ hc

end

end Sys2Proof.Machine
end

section
/-! The packet codec (42_codec.md) and its four commands. -/

namespace Sys2Proof.Machine

open Sys2Proof

/-- Settles O3: a well-formed packet is written as its frame, and what decodes is well-formed, with its frame in front. -/
theorem packetRoundTrip : Obligations.PacketRoundTrip := by
  unfold Obligations.PacketRoundTrip
  refine ⟨fun p hp => ⟨frameOf p, encodePacket_wellFormed hp, ?_⟩, fun b p n hd => ?_⟩
  · rw [decodePacket_frameOf_self hp, frameOf_length]
  · obtain ⟨hw, -, -⟩ := decodePacket_ok hd
    rw [encodePacket_wellFormed hw, frameOf_eq_take hd]

/-- Settles O4: the packet is decoded from its frame. -/
theorem encodeIsInjective : Obligations.EncodeIsInjective := by
  unfold Obligations.EncodeIsInjective
  refine ⟨fun p q hp hq => ⟨fun h => ?_, congrArg encodePacket⟩,
    fun p hp => ⟨frameOf p, encodePacket_wellFormed hp, frameOf_length p⟩⟩
  rw [encodePacket_wellFormed hp, encodePacket_wellFormed hq, Except.ok.injEq] at h
  exact frameOf_injective hp hq h

/-- Settles O5: the first half by the lengths; for a prefix, what the encoder writes is the frame of a well-formed packet. -/
theorem decodeFailsExactlyOnShortInput : Obligations.DecodeFailsExactlyOnShortInput := by
  unfold Obligations.DecodeFailsExactlyOnShortInput
  refine ⟨fun b => exists_decodePacket_eq_error, fun p f n hf hn => ?_⟩
  obtain ⟨hfit, rfl⟩ := encodePacket_eq_ok.mp hf
  exact decodePacket_take_frameOf (withPayloadLength_wellFormed hfit) hn

/-- Settles O21: by the length of the input. -/
theorem decodeAnswers : Obligations.DecodeAnswers := by
  unfold Obligations.DecodeAnswers
  intro k b s c hc
  exact ⟨fun h => exec_decode_error k hc (decodePacket_shortHeader h),
    fun h11 h => exec_decode_error k hc (decodePacket_truncatedPayload h11 h),
    fun h => exec_decode_ok k hc (decodePacket_whole h)⟩

/-- Settles O20: by the length of the payload. -/
theorem encodeAnswers : Obligations.EncodeAnswers := by
  unfold Obligations.EncodeAnswers
  intro k p s c hc
  exact ⟨fun h => exec_encode_error k hc (encodePacket_oversize h), fun h => exec_encode_ok k hc (encodePacket_ok h)⟩

/-- Settles O22: by the length of the payload. -/
theorem mkdataAnswers : Obligations.MkdataAnswers := by
  unfold Obligations.MkdataAnswers
  intro k seq b s c hc
  exact ⟨fun h => exec_mkdata_error k hc (makeData_oversize h), fun h => exec_mkdata_ok k hc (makeData_ok h)⟩

/-- Settles O23: the command is an answer, and the checksum of no bytes is zero. -/
theorem mkackAnswers : Obligations.MkackAnswers := by
  unfold Obligations.MkackAnswers
  intro k seq s c hc
  exact makeAck_eq seq ▸ State.answer_answered [.crc, .pk] (.packet (makeAck seq)) hc

end Sys2Proof.Machine
end

section
/-! SUPPORT. The two starts; the sender's steps, one lemma per way through each, with the frame that SendChunk writes and
what AckRead does with a run of whole frames; a frame row at a waiting sender; and one frame read by a serving receiver. -/

namespace Sys2Proof.Machine

open Sys2Proof

variable {P : Params}

/-! ### SEND and SERVE (R190, R230) -/

/-- An answer at the ports of a context that is there, as a change of the context list. -/
theorem State.reply_eq_modify {s : State} (r : Response) (h : s.cur < s.ctxs.length) :
    s.reply r = .next { s with ctxs := s.ctxs.modify s.cur (Ctx.respond r), started := true } := by
  have hc : s.ctx? s.cur = some s.ctxs[s.cur] := List.getElem?_eq_getElem h
  refine (State.perform_ok (f := fun c => .ok (c.respond r)) hc rfl).trans ?_
  rw [List.modify_eq_set_getElem?, ← State.ctx?_eq, hc]
  rfl

theorem exec_send {s : State} {k : Nat} {c : Ctx} (hc : s.ctx? k = some c) :
    exec (.send k) s =
      if c.role = .none ∧ c.txState = .idle then (s.setCtx k c.startSender).reply .started else s.reply .errRefused := by
  rw [exec, execSend, hc]

theorem exec_serve {s : State} {k : Nat} {c : Ctx} (hc : s.ctx? k = some c) :
    exec (.serve k) s =
      if c.role = .none ∧ c.rxState = .idle then (s.setCtx k c.startReceiver).reply .started else s.reply .errRefused := by
  rw [exec, execServe, hc]

/-! ### The frame of a chunk (R87, R194) -/

/-- The packet that a sender makes of a payload. -/
def dataPacket (seq : Word) (payload : Bytes) : Packet :=
  packetOf kindData seq (crc32 payload) (lenField payload.length) payload

theorem dataPacket_wellFormed {seq : Word} {payload : Bytes} (h : payload.length ≤ 65535) :
    (dataPacket seq payload).WellFormed := (Nat.mod_eq_of_lt (Nat.lt_succ_of_le h)).symm

theorem verifyPacket_dataPacket (seq : Word) (payload : Bytes) : verifyPacket (dataPacket seq payload) = true :=
  (verifyPacket_iff _).mpr rfl

/-! ### SendChunk from a payload on (R192) -/

theorem Ctx.sendPayload_writeErr {payload : Bytes} {c : Ctx} {n : Nat} {as : List TxAnswer}
    (hl : payload.length ≤ 65535) (ha : c.txAns = .writeErr n :: as) :
    c.sendPayload P payload =
      .ok (Ctx.fail .writeFailure
        { c.touch [.crc, .pk, .frame] with
          txAns := as, txOut := c.txOut ++ [⟨frameOf (dataPacket c.seqCtr payload), .writeErr n⟩] }) := by
  simp only [Ctx.sendPayload_eq hl, Ctx.txWrite, Ctx.touch_txAns, ha]
  rfl

theorem Ctx.sendPayload_ok {payload : Bytes} {c : Ctx} {as : List TxAnswer} (hl : payload.length ≤ 65535)
    (ha : c.txAns = .ok :: as) :
    c.sendPayload P payload =
      .ok (Ctx.awaitAck P
        { c.touch [.crc, .pk, .frame] with
          txAns := as, txOut := c.txOut ++ [⟨frameOf (dataPacket c.seqCtr payload), .ok⟩] }) := by
  simp only [Ctx.sendPayload_eq hl, Ctx.txWrite, Ctx.touch_txAns, ha]
  rfl

theorem Ctx.sendChunk_payload {key v : Block} {c : Ctx} {b : Bytes} {ms : List ChunkMsg} {rs : List RngMsg}
    (hs : c.txState = .fetch) (h : c.chunkIn = .chunk b :: ms) (hb : b ≠ []) (hl : b.length ≤ 1024)
    (hr : c.rngIn = .ok v :: rs) :
    c.sendChunk P (some key) =
      Ctx.sendPayload P (sealBytes (blockEncOf P key) v b)
        ({ { c with chunkIn := ms }.touch [.chunk] with rngIn := rs }.touch [.cipher]) :=
  (Ctx.sendChunk_chunk hs h hb hl).trans (Ctx.sendPlain_ok hr)

/-- The working registers after a SendChunk that reached its write. -/
def Work.sent (w : Work) : Work := ((w.touch [.chunk]).touch [.cipher]).touch [.crc, .pk, .frame]

theorem Work.sent_keepsBut (w : Work) : w.KeepsBut [.chunk, .cipher, .crc, .pk, .frame] w.sent :=
  ((Work.touch_keepsBut_of_subset (by decide) w).trans (Work.touch_keepsBut [.cipher] _) (.refl _) (by decide)).trans
    (Work.touch_keepsBut [.crc, .pk, .frame] _) (.refl _) (by decide)

/-- The context in which SendChunk has written the frame of a payload, with the connection's answer. -/
def Ctx.sent (ms : List ChunkMsg) (rs : List RngMsg) (as : List TxAnswer) (payload : Bytes) (a : TxAnswer) (c : Ctx) : Ctx :=
  { c with
    chunkIn := ms, rngIn := rs, txAns := as, work := c.work.sent
    txOut := c.txOut ++ [⟨frameOf (dataPacket c.seqCtr payload), a⟩] }

section

variable {key v : Block} {c : Ctx} {b : Bytes} {ms : List ChunkMsg} {rs : List RngMsg} {as : List TxAnswer}

theorem Ctx.sendChunk_writeErr {n : Nat} (hs : c.txState = .fetch) (h : c.chunkIn = .chunk b :: ms) (hb : b ≠ [])
    (hl : b.length ≤ 1024) (hr : c.rngIn = .ok v :: rs) (ha : c.txAns = .writeErr n :: as) :
    c.sendChunk P (some key) =
      .ok ((c.sent ms rs as (sealBytes (blockEncOf P key) v b) (.writeErr n)).fail .writeFailure) :=
  (Ctx.sendChunk_payload hs h hb hl hr).trans (Ctx.sendPayload_writeErr (by rw [sealBytes_length]; omega) ha)

theorem Ctx.sendChunk_ok (hs : c.txState = .fetch) (h : c.chunkIn = .chunk b :: ms) (hb : b ≠ [])
    (hl : b.length ≤ 1024) (hr : c.rngIn = .ok v :: rs) (ha : c.txAns = .ok :: as) :
    c.sendChunk P (some key) = .ok ((c.sent ms rs as (sealBytes (blockEncOf P key) v b) .ok).awaitAck P) :=
  (Ctx.sendChunk_payload hs h hb hl hr).trans (Ctx.sendPayload_ok (by rw [sealBytes_length]; omega) ha)

end

/-! ### The acknowledgment matcher on one packet (R198, R199) -/

theorem Ctx.isMatch_iff {c : Ctx} {p : Packet} :
    c.isMatch p = true ↔ p.kind = kindAck ∧ p.sequenceNumber = c.seqCtr := by
  simp [Ctx.isMatch]

theorem Ctx.ackPacket_of_match {c : Ctx} {p : Packet} (hk : p.kind = kindAck) (hq : p.sequenceNumber = c.seqCtr) :
    c.ackPacket p = c.accept := if_pos (Ctx.isMatch_iff.mpr ⟨hk, hq⟩)

theorem Ctx.ackPacket_of_mismatch {c : Ctx} {p : Packet} (hk : p.kind = kindAck) (hq : p.sequenceNumber ≠ c.seqCtr) :
    c.ackPacket p = { c with mismatchSeen := true } := by
  rw [Ctx.ackPacket, if_neg (mt Ctx.isMatch_iff.mp (hq ·.2)), Ctx.discard, Ctx.mismatchAfter, hk]
  simp

theorem Ctx.ackPacket_of_kind_ne {c : Ctx} {p : Packet} (hk : p.kind ≠ kindAck) : c.ackPacket p = c := by
  rw [Ctx.ackPacket, if_neg (mt Ctx.isMatch_iff.mp (hk ·.1)), Ctx.discard, Ctx.mismatchAfter,
    beq_eq_false_iff_ne.mpr hk, Bool.or_false]

/-! ### A frame row at a waiting sender (R83, R198) -/

/-- The row of a packet is performed as the packet read by the context `cur`. -/
theorem exec_frameInstr (p : Packet) (s : State) : exec (frameInstr p) s = s.receive p := by
  unfold frameInstr
  split
  case isTrue hdata => rw [exec, execData, ← hdata]; rfl
  case isFalse =>
    split
    case isTrue hack => rw [exec, execAckf, ← hack]; rfl
    case isFalse => rfl

theorem Ctx.receive_waiting {key : Option Block} {p : Packet} {c : Ctx} (hx : c.rxState ≠ .serving)
    (ht : c.txState = .awaitingAck) : c.receive P key p = .ok (c.ackPacket p) := by
  rw [Ctx.receive, if_neg hx, if_pos ht]

theorem State.receive_waiting {p : Packet} {s : State} {c : Ctx} (hc : s.ctx? s.cur = some c) (hx : c.rxState ≠ .serving)
    (ht : c.txState = .awaitingAck) : s.receive p = .next (s.setCtx s.cur (c.ackPacket p)) :=
  State.turn_took hc (Ctx.receive_waiting hx ht)

/-! ### AckRead (R197, R200) -/

@[simp] theorem noWholeFrame_nil : noWholeFrame [] := by
  intro p n
  simp [decodePacket]

/-- A read at a waiting sender in `PerRead` framing that is no frame. -/
theorem Ctx.ackRead_perRead_error {c : Ctx} {b : Bytes} {ms : List RxMsg} {e : FramingError}
    (hf : P.rxFraming = .perRead) (hs : c.txState = .awaitingAck) (h : c.rxIn = .read b :: ms)
    (hl : b.length ≤ P.rxBufBytes) (hd : decodePacket b = .error e) :
    c.ackRead P = .ok (({ c with rxIn := ms }.touch [.rxRead]).fail (framingErr e)) := by
  rw [Ctx.ackRead_read hs h hl, Ctx.ackBytes, hf]
  simp only [hd]

/-- The working registers after a read in which one packet was decoded. -/
def Work.readPacket (w : Work) : Work := (w.touch [.rxRead]).touch [.pk]

theorem Work.readPacket_keepsBut (w : Work) : w.KeepsBut [.rxRead, .pk] w.readPacket :=
  (Work.touch_keepsBut [.rxRead] w).trans (Work.touch_keepsBut [.pk] _) (by decide) (by decide)

/-- A read at a waiting sender in `PerRead` framing that is a frame. -/
theorem Ctx.ackRead_perRead_ok {c : Ctx} {b : Bytes} {ms : List RxMsg} {p : Packet} {n : Nat}
    (hf : P.rxFraming = .perRead) (hs : c.txState = .awaitingAck) (h : c.rxIn = .read b :: ms)
    (hl : b.length ≤ P.rxBufBytes) (hd : decodePacket b = .ok (p, n)) :
    c.ackRead P = .ok ((c.withRx c.rxbuf ms c.work.readPacket).ackPacket p) := by
  rw [Ctx.ackRead_read hs h hl, Ctx.ackBytes, hf]
  simp only [hd]
  rfl

/-- A read at a waiting sender that reassembles is the loop over the bytes held and read. -/
theorem Ctx.ackRead_reassemble {c : Ctx} {b : Bytes} {ms : List RxMsg} (hf : P.rxFraming = .reassemble)
    (hs : c.txState = .awaitingAck) (h : c.rxIn = .read b :: ms) (hl : b.length ≤ P.rxBufBytes) :
    c.ackRead P =
      .ok (Ctx.ackFrames (c.rxbuf ++ b).length (c.withRx (c.rxbuf ++ b) ms (c.work.touch [.rxRead]))) := by
  rw [Ctx.ackRead_read hs h hl, Ctx.ackBytes, hf]
  rfl

/-- The loop of AckRead takes the frame at the front, and ends with it or goes on. -/
theorem Ctx.ackFrames_frameOf (n : Nat) {c : Ctx} {p : Packet} {rest : Bytes} (hp : p.WellFormed)
    (hb : c.rxbuf = frameOf p ++ rest) :
    Ctx.ackFrames (n + 1) c =
      if c.isMatch p then ({ c with rxbuf := rest }.touch [.pk]).accept
      else Ctx.ackFrames n (({ c with rxbuf := rest }.touch [.pk]).discard p) := by
  rw [Ctx.ackFrames, Ctx.deframe_frameOf hp hb]
  rfl

theorem Ctx.ackFrames_match (n : Nat) {c : Ctx} {p : Packet} {rest : Bytes} (hp : p.WellFormed)
    (hb : c.rxbuf = frameOf p ++ rest) (hk : p.kind = kindAck) (hq : p.sequenceNumber = c.seqCtr) :
    Ctx.ackFrames (n + 1) c = ({ c with rxbuf := rest }.touch [.pk]).accept := by
  rw [Ctx.ackFrames_frameOf n hp hb, if_pos (Ctx.isMatch_iff.mpr ⟨hk, hq⟩)]

/-- The context after the discard of these packets (R199). -/
def Ctx.discardAll (ps : List Packet) (c : Ctx) : Ctx :=
  { c with mismatchSeen := c.mismatchSeen || ps.any fun q => q.kind == 0x02#8 }

/-- Where one whole frame and an incomplete rest are held and read, AckRead is the matcher's verdict on its packet. -/
theorem Ctx.ackRead_reassemble_frame {c : Ctx} {b rest : Bytes} {ms : List RxMsg} {p : Packet}
    (hf : P.rxFraming = .reassemble) (hs : c.txState = .awaitingAck) (h : c.rxIn = .read b :: ms)
    (hl : b.length ≤ P.rxBufBytes) (hp : p.WellFormed) (hb : c.rxbuf ++ b = frameOf p ++ rest) (hr : noWholeFrame rest) :
    c.ackRead P = .ok ((c.withRx rest ms c.work.readPacket).ackPacket p) := by
  obtain ⟨n, hn⟩ : ∃ n, (c.rxbuf ++ b).length = n + 1 := ⟨10 + p.payload.length + rest.length, by simp [hb]; omega⟩
  rw [Ctx.ackRead_reassemble hf hs h hl, hn, Ctx.ackFrames_frameOf n hp hb, Ctx.ackFrames_noWholeFrame n hr]
  rfl

/-- The loop over a run of frames and more bytes discards the frames, none of which is awaited, and goes on with the bytes
after them: what AckRead does with the bytes held and read. -/
theorem Ctx.ackRead_framesOf {c : Ctx} {b rest : Bytes} {ms : List RxMsg} {ps : List Packet}
    (hf : P.rxFraming = .reassemble) (hs : c.txState = .awaitingAck) (h : c.rxIn = .read b :: ms)
    (hl : b.length ≤ P.rxBufBytes)
    (hq : ∀ q ∈ ps, q.WellFormed ∧ ¬(q.kind = 0x02#8 ∧ q.sequenceNumber = c.seqCtr))
    (hb : c.rxbuf ++ b = framesOf ps ++ rest) :
    ∃ (m : Nat) (w : Work), rest.length ≤ m ∧ c.work.KeepsBut [.rxRead, .pk] w ∧
      c.ackRead P = .ok (Ctx.ackFrames m ((c.withRx rest ms w).discardAll ps)) := by
  obtain ⟨m, hm, hfuel⟩ : ∃ m, rest.length ≤ m ∧ (c.rxbuf ++ b).length = m + ps.length := by
    have hlen := length_le_framesOf ps
    refine ⟨(c.rxbuf ++ b).length - ps.length, ?_, ?_⟩ <;>
    · rw [hb, List.length_append]
      omega
  obtain ⟨w, hw, hloop⟩ :=
    Ctx.ackFrames_framesOf ps m (c.withRx (c.rxbuf ++ b) ms (c.work.touch [.rxRead])) rest hq hb
  refine ⟨m, w, hm, (Work.touch_keepsBut [.rxRead] c.work).trans hw (by decide) (by decide), ?_⟩
  rw [Ctx.ackRead_reassemble hf hs h hl, hfuel, hloop]
  rfl

/-- Where a read is one whole frame and no bytes are held, AckRead is the matcher's verdict on its packet, in both
framings. -/
theorem Ctx.ackRead_frame {c : Ctx} {p : Packet} {ms : List RxMsg} (hs : c.txState = .awaitingAck)
    (hempty : c.rxbuf = []) (h : c.rxIn = .read (frameOf p) :: ms) (hl : (frameOf p).length ≤ P.rxBufBytes)
    (hp : p.WellFormed) : c.ackRead P = .ok ((c.withRx [] ms c.work.readPacket).ackPacket p) := by
  cases hf : P.rxFraming with
  | perRead => exact hempty ▸ Ctx.ackRead_perRead_ok hf hs h hl (decodePacket_frameOf_self hp)
  | reassemble =>
    exact Ctx.ackRead_reassemble_frame hf hs h hl hp (by rw [hempty, List.nil_append, List.append_nil]) noWholeFrame_nil

/-- The awaited acknowledgment, read whole, ends the wait (R198). -/
theorem Ctx.ackRead_ackFrame {c : Ctx} {ms : List RxMsg} (hs : c.txState = .awaitingAck) (hempty : c.rxbuf = [])
    (h : c.rxIn = .read (ackFrame c.seqCtr) :: ms) (hl : 11 ≤ P.rxBufBytes) :
    c.ackRead P = .ok (c.withRx [] ms c.work.readPacket).accept := by
  rw [Ctx.ackRead_frame (p := makeAck c.seqCtr) hs hempty h (by rw [frameOf_length]; exact hl) rfl]
  exact congrArg _ (Ctx.ackPacket_of_match rfl rfl)

/-! ### AckTimeout and NextChunk (R201, R204) -/

theorem Ctx.timerExpired_iff {c : Ctx} : c.timerExpired = true ↔ c.timerArmed = true ∧ c.ackTimer = 0 := by
  simp [Ctx.timerExpired]

theorem Ctx.ackTimeout_expired {c : Ctx} (hs : c.txState = .awaitingAck) (h : c.timerExpired = true) :
    c.ackTimeout = .ok (c.fail c.timeoutCause) := if_pos ⟨hs, h⟩

theorem Ctx.ackTimeout_waits {c : Ctx} (h : ¬c.timerExpired = true) : c.ackTimeout = .error .waits :=
  if_neg fun hx => h hx.2

theorem Ctx.nextChunk_ok {c : Ctx} (hs : c.txState = .acked) (hq : c.seqCtr ≠ 0xFFFFFFFF#32) :
    c.nextChunk = .ok { c with seqCtr := c.seqCtr + 1#32, txState := .fetch } := by
  rw [Ctx.nextChunk, if_neg (not_not.mpr hs), if_neg hq]

theorem Ctx.nextChunk_overflow {c : Ctx} (hs : c.txState = .acked) (hq : c.seqCtr = 0xFFFFFFFF#32) :
    c.nextChunk = .error (.refuses .seqOverflow) := by
  rw [Ctx.nextChunk, if_neg (not_not.mpr hs), if_pos hq]

/-! ### One frame at a serving receiver (R235, R238) -/

/-- A verified Data packet whose acknowledgment the connection takes and whose payload opens is delivered. -/
theorem Ctx.handlePacket_delivers {key : Block} {p : Packet} {c : Ctx} {as : List TxAnswer} {t : Bytes}
    (hv : verifyPacket p = true) (hk : p.kind = kindData) (ha : c.txAns = .ok :: as) (hd : P.autoDecrypt = true)
    (ho : openBytes (blockEncOf P key) p.payload = .ok t) :
    ∃ c', c.handlePacket P (some key) p = .ok c' ∧ c'.plainOut = c.plainOut ++ [⟨p.sequenceNumber, t⟩] ∧
      c'.txOut = c.txOut ++ [⟨ackFrame p.sequenceNumber, .ok⟩] := by
  simp only [Ctx.handlePacket, hv, hk, Ctx.handleData, Ctx.sendAck, Ctx.txWrite, Ctx.touch_txAns, ha, Ctx.deliver, hd, ho]
  exact ⟨_, rfl, rfl, rfl⟩

/-- Where a read is one whole frame and no bytes are held, RxRead is the handling of its packet, in both framings. -/
theorem Ctx.rxRead_frame {key : Option Block} {c c' : Ctx} {p : Packet} {ms : List RxMsg} (hs : c.rxState = .serving)
    (hempty : c.rxbuf = []) (h : c.rxIn = .read (frameOf p) :: ms) (hl : (frameOf p).length ≤ P.rxBufBytes)
    (hp : p.WellFormed) (hh : (c.withRx [] ms c.work.readPacket).handlePacket P key p = .ok c') :
    c.rxRead P key = .ok c' := by
  cases hf : P.rxFraming with
  | perRead =>
    rw [Ctx.rxRead_read hs h hl, Ctx.rxBytes, hf]
    simp only [decodePacket_frameOf_self hp]
    rw [← hh, ← hempty]
    rfl
  | reassemble =>
    obtain ⟨n, hn⟩ : ∃ n, (c.rxbuf ++ frameOf p).length = n + 1 := ⟨10 + p.payload.length, by simp [hempty]; omega⟩
    obtain ⟨-, hbuf, -⟩ := Ctx.handlePacket_keeps hh
    have hb : c.rxbuf ++ frameOf p = frameOf p ++ [] := by rw [hempty, List.nil_append, List.append_nil]
    rw [Ctx.rxRead_reassemble hf hs h hl, hn, Ctx.rxFrames_frameOf hp hb]
    exact ⟨c', hh, Ctx.rxFrames_noWholeFrame P key n (hbuf ▸ noWholeFrame_nil)⟩

/-- A receiver that reads the frame of a payload that opens hands out what it opens to and acknowledges it (R235, R238). -/
theorem Ctx.rxRead_delivers {key : Block} {c : Ctx} {seq : Word} {payload t : Bytes} {ms : List RxMsg} {as : List TxAnswer}
    (hs : c.rxState = .serving) (hempty : c.rxbuf = []) (h : c.rxIn = .read (frameOf (dataPacket seq payload)) :: ms)
    (hfit : payload.length ≤ 65535) (hl : 11 + payload.length ≤ P.rxBufBytes) (ha : c.txAns = .ok :: as)
    (hd : P.autoDecrypt = true) (ho : openBytes (blockEncOf P key) payload = .ok t) :
    ∃ c', c.rxRead P (some key) = .ok c' ∧ c'.plainOut = c.plainOut ++ [⟨seq, t⟩] ∧
      c'.txOut = c.txOut ++ [⟨ackFrame seq, .ok⟩] ∧ c'.rxState = .serving := by
  obtain ⟨c', hh, hplain, hout⟩ := Ctx.handlePacket_delivers (c := c.withRx [] ms c.work.readPacket)
    (verifyPacket_dataPacket seq payload) rfl ha hd ho
  obtain ⟨hregs, -, -⟩ := Ctx.handlePacket_keeps hh
  exact ⟨c', Ctx.rxRead_frame hs hempty h (by rw [frameOf_length]; exact hl) (dataPacket_wellFormed hfit) hh, hplain, hout,
    hregs.rxState.trans hs⟩

end Sys2Proof.Machine
end

section
/-! SUPPORT. Which moves change the registers of a context: what a turn, a change by the environment and a command make of
the context of a given number; and the row of R210 that each step of the sender takes. -/

namespace Sys2Proof.Machine

open Sys2Proof

variable {k : Nat} {s t : State} {c c' : Ctx}

/-! ### One context before and after a move -/

/-- A turn given to context `j` changes context `k` only if they are the same. -/
theorem State.give_ctx {j : Nat} {f : Ctx → Turn} {mark : State → State} (hmark : ∀ u, (mark u).ctxs = u.ctxs)
    (h : s.give j f mark = .next t) (hc : s.ctx? k = some c) (hc' : t.ctx? k = some c') :
    c' = c ∨ (j = k ∧ f c = .ok c') := by
  obtain ⟨d, d', hd, hf, rfl⟩ | ⟨d, -, -, rfl⟩ := State.give_next h
  · rw [State.ctx?_eq, hmark, ← State.ctx?_eq] at hc'
    by_cases hjk : k = j
    · subst hjk
      rw [State.ctx?_setCtx_self hd] at hc'
      rw [hc] at hd
      cases hc'
      cases hd
      exact .inr ⟨rfl, hf⟩
    · rw [State.ctx?_setCtx_ne d' hjk, hc] at hc'
      exact .inl (Option.some.inj hc').symm
  · rw [hc] at hc'
    exact .inl (Option.some.inj hc').symm

theorem State.turn_ctx {j : Nat} {f : Ctx → Turn} (h : s.turn j f = .next t) (hc : s.ctx? k = some c)
    (hc' : t.ctx? k = some c') : c' = c ∨ (j = k ∧ f c = .ok c') :=
  State.give_ctx (mark := fun u => { u with cur := j }) (fun _ => rfl) h hc hc'

theorem State.onCtx_ctx {j : Nat} {f : Ctx → Ctx} (h : s.onCtx j f = .next t) (hc : s.ctx? k = some c)
    (hc' : t.ctx? k = some c') : c' = c ∨ (j = k ∧ c' = f c) := by
  obtain ⟨d, hd, rfl⟩ := State.onCtx_next h
  by_cases hjk : k = j
  · subst hjk
    rw [State.ctx?_setCtx_self hd] at hc'
    rw [hc] at hd
    cases hc'
    cases hd
    exact .inr ⟨rfl, rfl⟩
  · rw [State.ctx?_setCtx_ne _ hjk, hc] at hc'
    exact .inl (Option.some.inj hc').symm

/-! ### Commands (R90 to R92) -/

/-- Of a context, the answers on `RSP` alone have changed in what it shows. -/
def Ctx.OnlyAnswers (c c' : Ctx) : Prop := c'.view = { c.view with rsp := c'.rsp }

theorem Ctx.OnlyAnswers.refl (c : Ctx) : c.OnlyAnswers c := rfl

theorem Ctx.encrypt_onlyAnswers {P : Params} {key : Option Block} {p : Bytes} (h : c.encrypt P key p = .ok c') :
    c.OnlyAnswers c' := by
  unfold Ctx.encrypt at h
  split at h
  · cases h
  · split at h
    · cases h
    · obtain ⟨rs, -, rfl⟩ := Ctx.rngDraw_eq_some.mp ‹_›; cases h; rfl
    · obtain ⟨rs, -, rfl⟩ := Ctx.rngDraw_eq_some.mp ‹_›; cases h; rfl

theorem Ctx.decrypt_onlyAnswers {P : Params} {key : Option Block} {d : Bytes} (h : c.decrypt P key d = .ok c') :
    c.OnlyAnswers c' := by
  unfold Ctx.decrypt at h
  split at h
  · cases h
  · split at h <;> (cases h; rfl)

/-- A command that is taken is a start of a context, or a turn at the ports of the context `cur` that shows its answer
alone. -/
theorem exec_command_taken {m : CmdMsg} {i : Instr} (hd : decodeCmd m = .ok i) (h : exec i s = .next t) :
    (∃ j, i = .send j ∨ i = .serve j) ∨
      ∃ f, (∀ c c', f c = .ok c' → Ctx.OnlyAnswers c c') ∧ s.perform f = .next t := by
  have answered (regs : List WorkReg) (r : Response) (h : s.answer regs r = .next t) :
      ∃ f, (∀ c c', f c = .ok c' → Ctx.OnlyAnswers c c') ∧ s.perform f = .next t :=
    ⟨_, fun c c' hc => by cases hc; rfl, h⟩
  have replied (r : Response) (h : s.reply r = .next t) :
      ∃ f, (∀ c c', f c = .ok c' → Ctx.OnlyAnswers c c') ∧ s.perform f = .next t :=
    ⟨_, fun c c' hc => by cases hc; rfl, h⟩
  obtain ⟨m', hcmd⟩ := decodeCmd_encode_cmd hd
  cases i with
  | data | ackf | unknown => cases hcmd
  | send j => exact .inl ⟨j, .inl rfl⟩
  | serve j => exact .inl ⟨j, .inr rfl⟩
  | reserved0 | reservedB | reservedC | reservedD | reservedE | reservedF => cases h
  | crc32 | verify | mkack => exact .inr (answered _ _ h)
  | encrypt => exact .inr ⟨_, fun _ _ => Ctx.encrypt_onlyAnswers, h⟩
  | decrypt => exact .inr ⟨_, fun _ _ => Ctx.decrypt_onlyAnswers, h⟩
  | encode =>
    simp only [exec, execEncode] at h
    split at h <;> exact .inr (replied _ h)
  | decode =>
    simp only [exec, execDecode] at h
    split at h
    · exact .inr (replied _ h)
    · exact .inr (answered _ _ h)
  | mkdata =>
    simp only [exec, execMkdata] at h
    split at h
    · exact .inr (replied _ h)
    · exact .inr (answered _ _ h)

theorem State.perform_ctx {f : Ctx → Turn} (hf : ∀ c c', f c = .ok c' → Ctx.OnlyAnswers c c')
    (h : s.perform f = .next t) (hc : s.ctx? k = some c) (hc' : t.ctx? k = some c') : c.OnlyAnswers c' := by
  obtain rfl | ⟨-, htook⟩ :=
    State.give_ctx (mark := fun u => { u with started := true }) (fun _ => rfl) h hc hc'
  · exact .refl _
  · exact hf c c' htook

theorem State.reply_ctx {r : Response} (h : s.reply r = .next t) (hc : s.ctx? k = some c) (hc' : t.ctx? k = some c') :
    c.OnlyAnswers c' := State.perform_ctx (fun c c' hr => by cases hr; rfl) h hc hc'

/-- A start of context `j`, which was `d`, as `c1`, where it is idle: context `k` shows the start if it is `j`, and its
answers alone if not. -/
theorem State.start_ctx {j : Nat} {d c1 : Ctx} {idle : Prop} [Decidable idle] (hd : s.ctx? j = some d)
    (h : (if idle then (s.setCtx j c1).reply .started else s.reply .errRefused) = .next t) (hc : s.ctx? k = some c)
    (hc' : t.ctx? k = some c') : c.OnlyAnswers c' ∨ (j = k ∧ d = c ∧ idle ∧ c1.OnlyAnswers c') := by
  split at h
  case isFalse => exact .inl (State.reply_ctx h hc hc')
  case isTrue hidle =>
    by_cases hjk : k = j
    · subst hjk
      exact .inr ⟨rfl, Option.some.inj (hd.symm.trans hc), hidle, State.reply_ctx h (State.ctx?_setCtx_self hc) hc'⟩
    · exact .inl (State.reply_ctx h ((State.ctx?_setCtx_ne c1 hjk).trans hc) hc')

/-- What a command makes of a context: an answer at its ports, or the start that SEND or SERVE of its number asks for. -/
theorem exec_command_ctx {m : CmdMsg} {i : Instr} (hm : decodeCmd m = .ok i) (h : exec i s = .next t)
    (hc : s.ctx? k = some c) (hc' : t.ctx? k = some c') :
    c.OnlyAnswers c' ∨
      (i = .send k ∧ c.role = .none ∧ c.txState = .idle ∧ c.startSender.OnlyAnswers c') ∨
      (i = .serve k ∧ c.role = .none ∧ c.rxState = .idle ∧ c.startReceiver.OnlyAnswers c') := by
  obtain ⟨j, rfl | rfl⟩ | ⟨f, hf, h⟩ := exec_command_taken hm h
  · cases hd : s.ctx? j with
    | none => simp [exec, execSend, hd] at h
    | some d =>
      rw [exec_send hd] at h
      obtain hports | ⟨rfl, rfl, hidle, hstart⟩ := State.start_ctx hd h hc hc'
      · exact .inl hports
      · exact .inr (.inl ⟨rfl, hidle.1, hidle.2, hstart⟩)
  · cases hd : s.ctx? j with
    | none => simp [exec, execServe, hd] at h
    | some d =>
      rw [exec_serve hd] at h
      obtain hports | ⟨rfl, rfl, hidle, hstart⟩ := State.start_ctx hd h hc hc'
      · exact .inl hports
      · exact .inr (.inr ⟨rfl, hidle.1, hidle.2, hstart⟩)
  · exact .inl (State.perform_ctx hf h hc hc')

/-- What the host's move makes of a context, with the command it takes. -/
theorem State.takeCommand_ctx {j : Nat} (h : s.takeCommand j = .next t) (hc : s.ctx? k = some c)
    (hc' : t.ctx? k = some c') :
    c.OnlyAnswers c' ∨
      (s.commands (.host j) (.send k) ∧ c.role = .none ∧ c.txState = .idle ∧ c.startSender.OnlyAnswers c') ∨
      (s.commands (.host j) (.serve k) ∧ c.role = .none ∧ c.rxState = .idle ∧ c.startReceiver.OnlyAnswers c') := by
  obtain ⟨d, hd, ⟨-, rfl⟩ | ⟨m, ms, i, hm, hdec, hi⟩⟩ := State.takeCommand_next h
  · obtain rfl : c = c' := Option.some.inj (hc.symm.trans hc')
    exact .inl (.refl c)
  · obtain hports | ⟨rfl, hstart⟩ | ⟨rfl, hstart⟩ := exec_command_ctx (s := { s with cur := j }) hdec hi hc hc'
    · exact .inl hports
    · exact .inr (.inl ⟨⟨j, d, m, ms, rfl, hd, hm, hdec⟩, hstart⟩)
    · exact .inr (.inr ⟨⟨j, d, m, ms, rfl, hd, hm, hdec⟩, hstart⟩)

/-! ### The rows of the sender's steps (R210) -/

/-- A payload within the length field is written with the connection's answer, on which the state that follows depends. -/
theorem Ctx.sendPayload_took {P : Params} {payload : Bytes} (hl : payload.length ≤ 65535)
    (h : c.sendPayload P payload = .ok c') :
    (c.txAns.head? = some .ok ∧ c'.txState = .awaitingAck) ∨
      ∃ n, c.txAns.head? = some (.writeErr n) ∧ c'.txState = .failed := by
  cases ha : c.txAns with
  | nil => simp [Ctx.sendPayload_eq hl, Ctx.txWrite, ha] at h
  | cons a as =>
    cases a with
    | ok =>
      rw [Ctx.sendPayload_ok hl ha] at h
      cases h
      exact .inl ⟨rfl, rfl⟩
    | writeErr n =>
      rw [Ctx.sendPayload_writeErr hl ha] at h
      cases h
      exact .inr ⟨n, rfl, rfl⟩

theorem Ctx.sendChunk_edge {key : Option Block} (h : c.sendChunk s.params key = .ok c') :
    TxEdge s (.sendChunk k) k c c.txState c'.txState := by
  obtain ⟨hs, hcases⟩ := Ctx.sendChunk_took h
  rw [hs]
  obtain ⟨ms, hin, rfl⟩ | ⟨ms, hin, rfl⟩ | ⟨_, b, ms, rs, -, hin, hb, -, hr, rfl⟩ |
    ⟨_, b, ms, iv, rs, -, hin, hb, hl, hr, hpayload⟩ := hcases
  · exact ⟨rfl, .inl (by rw [hin]; rfl)⟩
  · exact ⟨rfl, by rw [hin]; rfl⟩
  · exact ⟨rfl, .inr ⟨b, hb, by rw [hin]; rfl, .inl (by rw [hr]; rfl)⟩⟩
  · obtain ⟨ha, hstate⟩ | ⟨n, ha, hstate⟩ := Ctx.sendPayload_took (by rw [sealBytes_length]; omega) hpayload
    · rw [hstate]
      exact ⟨rfl, b, iv, hb, by rw [hin]; rfl, by rw [hr]; rfl, ha⟩
    · rw [hstate]
      exact ⟨rfl, .inr ⟨b, hb, by rw [hin]; rfl, .inr ⟨iv, n, by rw [hr]; rfl, ha⟩⟩⟩

theorem Ctx.ackPacket_txState (p : Packet) (c : Ctx) :
    (c.isMatch p = true ∧ (c.ackPacket p).txState = .acked) ∨ (c.ackPacket p).txState = c.txState := by
  unfold Ctx.ackPacket
  split
  case isTrue hm => exact .inl ⟨hm, rfl⟩
  case isFalse => exact .inr rfl

/-- A loop of AckRead that ends the wait has met a whole frame whose packet matches, after a run of whole frames. -/
theorem Ctx.ackFrames_txState : ∀ (n : Nat) (c : Ctx),
    (Ctx.ackFrames n c).txState = c.txState ∨
      ((Ctx.ackFrames n c).txState = .acked ∧ ∃ ps p rest, (∀ q ∈ ps, Packet.WellFormed q) ∧ p.WellFormed ∧
        c.isMatch p = true ∧ c.rxbuf = framesOf ps ++ frameOf p ++ rest)
  | 0, c => .inl rfl
  | n + 1, c => by
    by_cases hno : noWholeFrame c.rxbuf
    · exact .inl (congrArg Ctx.txState (Ctx.ackFrames_noWholeFrame (n + 1) hno))
    · obtain ⟨p, m, hd⟩ : ∃ p m, decodePacket c.rxbuf = .ok (p, m) := by simpa [noWholeFrame] using hno
      obtain ⟨hp, -, hb⟩ := decodePacket_ok hd
      rw [Ctx.ackFrames_frameOf n hp hb]
      by_cases hm : c.isMatch p = true
      · rw [if_pos hm]
        exact .inr ⟨rfl, [], p, c.rxbuf.drop m, by simp, hp, hm, by simpa using hb⟩
      · rw [if_neg hm]
        obtain hwaits | ⟨hacked, ps, q, rest, hps, hq, hmatch, hrest⟩ :=
          Ctx.ackFrames_txState n (({ c with rxbuf := c.rxbuf.drop m }.touch [.pk]).discard p)
        · exact .inl hwaits
        · refine .inr ⟨hacked, p :: ps, q, rest, List.forall_mem_cons.mpr ⟨hp, hps⟩, hq, hmatch, ?_⟩
          rw [hb, framesOf_cons, List.append_assoc, List.append_assoc, ← List.append_assoc (framesOf ps)]
          exact congrArg _ hrest

/-- The bytes of a read leave a waiting sender as it is, or fail it where one read is one frame and they are none, or end the
wait by a packet that matches. -/
theorem Ctx.ackBytes_txState (P : Params) (b : Bytes) (c : Ctx) :
    (c.ackBytes P b).txState = c.txState ∨
      (P.rxFraming = .perRead ∧ (∃ e, decodePacket b = .error e) ∧ (c.ackBytes P b).txState = .failed) ∨
      ((c.ackBytes P b).txState = .acked ∧ ∃ p, c.canRead P b p ∧ c.isMatch p = true) := by
  unfold Ctx.ackBytes Ctx.canRead
  cases P.rxFraming with
  | perRead =>
    cases hd : decodePacket b with
    | error e => exact .inr (.inl ⟨rfl, ⟨e, rfl⟩, rfl⟩)
    | ok q =>
      obtain ⟨p, n⟩ := q
      obtain ⟨hm, hacked⟩ | hwaits := Ctx.ackPacket_txState p (c.touch [.pk])
      · exact .inr (.inr ⟨hacked, p, ⟨n, rfl⟩, hm⟩)
      · exact .inl hwaits
  | reassemble =>
    obtain hwaits | ⟨hacked, ps, p, rest, hps, hp, hm, hb⟩ :=
      Ctx.ackFrames_txState (c.rxbuf ++ b).length { c with rxbuf := c.rxbuf ++ b }
    · exact .inl hwaits
    · exact .inr (.inr ⟨hacked, p, ⟨ps, rest, hps, hp, hb⟩, hm⟩)

theorem Ctx.ackRead_edge (h : c.ackRead s.params = .ok c') (hne : c'.txState ≠ c.txState) :
    TxEdge s (.ackRead k) k c c.txState c'.txState := by
  obtain ⟨hs, hcases⟩ := Ctx.ackRead_took h
  obtain ⟨ms, hin, rfl⟩ | ⟨ms, hin, rfl⟩ | ⟨b, ms, hin, -, rfl⟩ := hcases
  · rw [hs]
    exact .inl ⟨rfl, .inl (by rw [hin]; rfl)⟩
  · rw [hs]
    exact .inl ⟨rfl, .inr (.inl (by rw [hin]; rfl))⟩
  · obtain hwaits | ⟨hf, ⟨e, he⟩, hfailed⟩ | ⟨hacked, p, hread, hm⟩ :=
      Ctx.ackBytes_txState s.params b ({ c with rxIn := ms }.touch [.rxRead])
    · exact absurd hwaits hne
    · rw [hfailed, hs]
      exact .inl ⟨rfl, .inr (.inr ⟨hf, b, e, by rw [hin]; rfl, he⟩)⟩
    · rw [hacked, hs]
      obtain ⟨hkind, hseq⟩ := Ctx.isMatch_iff.mp hm
      exact ⟨rfl, b, p, by rw [hin]; rfl, hread, hkind, hseq⟩

theorem Ctx.ackTimeout_edge (h : c.ackTimeout = .ok c') : TxEdge s (.ackTimeout k) k c c.txState c'.txState := by
  obtain ⟨hs, hexpired, rfl⟩ := Ctx.ackTimeout_took h
  rw [hs]
  exact .inr ⟨rfl, Ctx.timerExpired_iff.mp hexpired⟩

theorem Ctx.nextChunk_edge (h : c.nextChunk = .ok c') : TxEdge s (.nextChunk k) k c c.txState c'.txState := by
  obtain ⟨hs, hq, rfl⟩ := Ctx.nextChunk_took h
  rw [hs]
  exact ⟨rfl, by bv_omega⟩

@[simp] theorem Ctx.close_txState (P : Params) (c : Ctx) (e : Event) : (c.close P e).txState = c.txState := by
  unfold Ctx.close; split <;> rfl

theorem Ctx.rxRead_txState {P : Params} {key : Option Block} (h : c.rxRead P key = .ok c') : c'.txState = c.txState := by
  obtain ⟨-, ⟨c1, e, hv, rfl⟩ | ⟨hregs, -⟩⟩ := Ctx.rxRead_cases h
  · rw [Ctx.close_txState]
    exact congrArg Ctx.View.txState hv
  · exact hregs.txState

/-- A move that changes `tx_state` of a context is a reset of it, or a row of R210. -/
theorem runMove_txEdge {m : Move} (h : runMove m s = .next t) (hc : s.ctx? k = some c) (hc' : t.ctx? k = some c')
    (hne : c'.txState ≠ c.txState) : m.resets k = true ∨ TxEdge s m k c c.txState c'.txState := by
  have turned {j : Nat} {f : Ctx → Turn} (h : s.turn j f = .next t) : j = k ∧ f c = .ok c' :=
    (State.turn_ctx h hc hc').resolve_left fun heq => hne (heq ▸ rfl)
  have offered {j : Nat} {f : Ctx → Ctx} (h : s.onCtx j f = .next t) (hf : (f c).txState = c.txState) : False := by
    obtain rfl | ⟨-, rfl⟩ := State.onCtx_ctx h hc hc'
    · exact hne rfl
    · exact hne hf
  cases m with
  | host j =>
    obtain hports | ⟨hcmd, hrole, hidle, hstart⟩ | ⟨-, -, -, hstart⟩ := State.takeCommand_ctx h hc hc'
    · exact absurd (congrArg Ctx.View.txState hports) hne
    · have hfetch : c'.txState = .fetch := congrArg Ctx.View.txState hstart
      rw [hidle, hfetch]
      exact .inr ⟨hrole, hcmd⟩
    · exact absurd (congrArg Ctx.View.txState hstart) hne
  | sendChunk j => obtain ⟨rfl, htook⟩ := turned h; exact .inr (Ctx.sendChunk_edge htook)
  | ackRead j => obtain ⟨rfl, htook⟩ := turned h; exact .inr (Ctx.ackRead_edge htook hne)
  | ackTimeout j => obtain ⟨rfl, htook⟩ := turned h; exact .inr (Ctx.ackTimeout_edge htook)
  | nextChunk j => obtain ⟨rfl, htook⟩ := turned h; exact .inr (Ctx.nextChunk_edge htook)
  | rxRead j => obtain ⟨rfl, htook⟩ := turned h; exact absurd (Ctx.rxRead_txState htook) hne
  | tick =>
    cases h
    rw [State.ctx?_eq, List.getElem?_map, ← State.ctx?_eq, hc] at hc'
    cases hc'
    exact absurd c.tick_txState hne
  | resetCtx j discard =>
    obtain rfl | ⟨rfl, -⟩ := State.onCtx_ctx h hc hc'
    · exact absurd rfl hne
    · exact .inl (beq_self_eq_true j)
  | resetAll => exact .inl rfl
  | loadKey key =>
    obtain ⟨-, -, -, rfl⟩ := State.loadKey_next h
    exact absurd (congrArg Ctx.txState (Option.some.inj (hc'.symm.trans hc))) hne
  | offerCmd | offerRng | offerChunk | answerTx | offerRx => exact (offered h rfl).elim

end Sys2Proof.Machine
end

section
/-! The sender sequencer (43_sender.md): its start, its steps, frames at a waiting sender, and a chunk end to end. -/

namespace Sys2Proof.Machine

open Sys2Proof

/-- Settles O43: the frame written is that of a Data packet, which verifies and whose payload opens; the acknowledgment
written for it is the frame of a packet that matches. -/
theorem chunkIsDeliveredAndAcknowledged : Obligations.ChunkIsDeliveredAndAcknowledged := by
  unfold Obligations.ChunkIsDeliveredAndAcknowledged
  intro i s cs b v ms rs as hcs hfetch hempty hchunk hb hl hrng hans hbuf hkey
  have hsent := Ctx.sendChunk_ok (P := s.params) (key := s.key) hfetch hchunk hb hl hrng hans
  rw [← State.cipherKey_loaded hkey] at hsent
  refine ⟨_, _, _, State.turn_took hcs hsent, State.ctx?_setCtx_self hcs, rfl, ?_⟩
  intro j r cr ms' as' hcr hrkey hrloaded hblock hauto hrbuf hserving hrempty hread hrans
  have hlen := sealBytes_length (blockEncOf s.params s.key) v b
  have hopen : openBytes (blockEncOf r.params r.key) (sealBytes (blockEncOf s.params s.key) v b) = .ok b := by
    rw [blockEncOf_congr hblock, hrkey]
    exact openBytes_sealBytes _ v b
  obtain ⟨cr1, hreceived, hplain, hout, hserving1⟩ :=
    Ctx.rxRead_delivers hserving hrempty hread (by omega) (by omega) hrans hauto hopen
  rw [← State.cipherKey_loaded hrloaded] at hreceived
  refine ⟨_, cr1, _, State.turn_took hcr hreceived, State.ctx?_setCtx_self hcr, hplain, hout, hserving1, ?_⟩
  intro s2 cs2 ms2 hcs2 hparams hview hack
  have hwait : cs2.txState = .awaitingAck := congrArg Ctx.View.txState hview
  have hseq : cs2.seqCtr = cs.seqCtr := congrArg Ctx.View.seqCtr hview
  have hnone : cs2.rxbuf = [] := (congrArg Ctx.View.rxbuf hview).trans hempty
  have hacked := Ctx.ackRead_ackFrame (P := s2.params) hwait hnone (hseq ▸ hack) (by rw [hparams]; omega)
  exact ⟨_, _, State.turn_took hcs2 hacked, State.ctx?_setCtx_self hcs2, rfl, hseq⟩

/-- Settles O24: the start and the answer are two changes of the context list; a refusal is the answer alone. -/
theorem sendStarts : Obligations.SendStarts := by
  unfold Obligations.SendStarts
  intro k s c d hc hd
  refine ⟨fun hidle => ?_, fun hbusy => ?_⟩
  · rw [exec_send hc, if_pos hidle]
    exact State.reply_eq_modify _ (by simpa using State.ctx?_lt hd)
  · rw [exec_send hc, if_neg hbusy]
    exact State.perform_ok hd rfl

/-- Settles O32: each row is a packet read by the context `cur`, which the matcher looks at. -/
theorem framesAtWaitingSender : Obligations.FramesAtWaitingSender := by
  unfold Obligations.FramesAtWaitingSender
  intro kind seq cks len b s c hc hx ht
  have row {p : Packet} {c' : Ctx} {v : Ctx.View} (h : c.ackPacket p = c') (hb : c.Became v c.inputs [] c') :
      ∃ t, s.receive p = .next t ∧ State.CtxBecame s.cur c v c.inputs [] s t :=
    State.turn_became hc ((Ctx.receive_waiting hx ht).trans (congrArg _ h)) hb
  refine ⟨fun hq => ?ack, fun hq => ?otherAck, ?data, fun hk => ?unknown⟩
  case ack => exact row (Ctx.ackPacket_of_match rfl hq) ⟨rfl, rfl, .refl _ _⟩
  case otherAck => exact row (Ctx.ackPacket_of_mismatch rfl hq) ⟨rfl, rfl, .refl _ _⟩
  case data => exact row (Ctx.ackPacket_of_kind_ne (show kindData ≠ kindAck by decide)) ⟨rfl, rfl, .refl _ _⟩
  case unknown => exact row (Ctx.ackPacket_of_kind_ne hk) ⟨rfl, rfl, .refl _ _⟩

/-- Settles O34: by what stands at the chunk source, the key, the random source's answer and the connection's. -/
theorem sendChunkOutcomes : Obligations.SendChunkOutcomes := by
  unfold Obligations.SendChunkOutcomes
  intro k s c hc hs
  refine ⟨fun ms hin => ?srcErr, fun ms hin => ?done, fun b ms hin hb hl => ⟨fun hkey => ?noKey,
    fun hkey rs hr => ?rngErr, fun hkey v rs hr => ?payload⟩⟩
  case srcErr => exact State.turn_became hc (Ctx.sendChunk_srcErr hs hin) ⟨rfl, rfl, .refl _ _⟩
  case done => exact State.turn_became hc (Ctx.sendChunk_end hs hin) ⟨rfl, rfl, Work.touch_keepsBut [.chunk] _⟩
  case noKey =>
    have hrefused := (Ctx.sendChunk_chunk (P := s.params) (key := none) hs hin hb hl).trans Ctx.sendPlain_noKey
    rw [← State.cipherKey_notLoaded hkey] at hrefused
    exact State.turn_refuses hc hrefused
  case rngErr =>
    have hfailed := (Ctx.sendChunk_chunk (P := s.params) (key := some s.key) hs hin hb hl).trans (Ctx.sendPlain_rngErr hr)
    rw [← State.cipherKey_loaded hkey] at hfailed
    exact State.turn_became hc hfailed ⟨rfl, rfl, Work.touch_keepsBut [.chunk] _⟩
  case payload =>
    have hlen := sealBytes_length (blockEncOf s.params s.key) v b
    intro payload f
    have hpayload : (dataPacket c.seqCtr payload).payload.length = 16 + b.length := hlen
    have hframe : f = frameOf (dataPacket c.seqCtr payload) := by
      rw [dataPacket, lenField, show payload.length = 16 + b.length from hlen]
      rfl
    rw [hframe]
    refine ⟨by rw [frameOf_length, hpayload]; omega, fun n as ha => ?writeErr, fun as ha => ?ok⟩
    case writeErr =>
      have hfailed := Ctx.sendChunk_writeErr (P := s.params) (key := s.key) hs hin hb hl hr ha
      rw [← State.cipherKey_loaded hkey] at hfailed
      exact State.turn_became hc hfailed ⟨rfl, rfl, c.work.sent_keepsBut⟩
    case ok =>
      have hsent := Ctx.sendChunk_ok (P := s.params) (key := s.key) hs hin hb hl hr ha
      rw [← State.cipherKey_loaded hkey] at hsent
      exact State.turn_became hc hsent ⟨rfl, rfl, c.work.sent_keepsBut⟩

/-- Settles O35: by the message taken, and for a read by what it decodes to. -/
theorem ackReadPerRead : Obligations.AckReadPerRead := by
  unfold Obligations.AckReadPerRead
  intro k s c ms hc hs hf
  refine ⟨fun hin => ?eof, fun hin => ?readErr, fun b hin hl =>
    ⟨fun hd => ?short, fun hd => ?truncated, fun p n hd =>
      ⟨fun hp => ?ack, fun hp => ?otherAck, fun hk => ?other⟩⟩⟩
  case eof => exact State.turn_became hc (Ctx.ackRead_eof hs hin) ⟨rfl, rfl, .refl _ _⟩
  case readErr => exact State.turn_became hc (Ctx.ackRead_readErr hs hin) ⟨rfl, rfl, .refl _ _⟩
  case short =>
    exact State.turn_became hc (Ctx.ackRead_perRead_error hf hs hin hl hd) ⟨rfl, rfl, Work.touch_keepsBut [.rxRead] _⟩
  case truncated =>
    exact State.turn_became hc (Ctx.ackRead_perRead_error hf hs hin hl hd) ⟨rfl, rfl, Work.touch_keepsBut [.rxRead] _⟩
  all_goals have hread := Ctx.ackRead_perRead_ok hf hs hin hl hd
  case ack =>
    exact State.turn_became hc (hread.trans (congrArg _ (Ctx.ackPacket_of_match hp.1 hp.2)))
      ⟨rfl, rfl, c.work.readPacket_keepsBut⟩
  case otherAck =>
    exact State.turn_became hc (hread.trans (congrArg _ (Ctx.ackPacket_of_mismatch hp.1 hp.2)))
      ⟨rfl, rfl, c.work.readPacket_keepsBut⟩
  case other =>
    exact State.turn_became hc (hread.trans (congrArg _ (Ctx.ackPacket_of_kind_ne hk)))
      ⟨rfl, rfl, c.work.readPacket_keepsBut⟩

/-- Settles O36: the loop discards the run of frames, and ends at the incomplete rest or at the match. -/
theorem ackReadReassemble : Obligations.AckReadReassemble := by
  unfold Obligations.AckReadReassemble
  intro k s c ms hc hs hf
  refine ⟨fun hin => ?eof, fun hin => ?readErr, fun b hin hl ps rest hq =>
    ⟨fun hb hr => ?noMatch, fun p hp hk hseq hb => ?matched⟩⟩
  case eof => exact State.turn_became hc (Ctx.ackRead_eof hs hin) ⟨rfl, rfl, .refl _ _⟩
  case readErr => exact State.turn_became hc (Ctx.ackRead_readErr hs hin) ⟨rfl, rfl, .refl _ _⟩
  case noMatch =>
    obtain ⟨m, w, -, hw, hread⟩ := Ctx.ackRead_framesOf hf hs hin hl hq hb
    rw [Ctx.ackFrames_noWholeFrame m hr] at hread
    exact State.turn_became hc hread ⟨rfl, rfl, hw⟩
  case matched =>
    rw [List.append_assoc] at hb
    obtain ⟨m, w, hm, hw, hread⟩ := Ctx.ackRead_framesOf hf hs hin hl hq hb
    rw [List.length_append, frameOf_length] at hm
    obtain ⟨m, rfl⟩ : ∃ n, m = n + 1 := Nat.exists_eq_succ_of_ne_zero (by omega)
    rw [Ctx.ackFrames_match (c := (c.withRx (frameOf p ++ rest) ms w).discardAll ps) m hp rfl hk hseq] at hread
    exact State.turn_became hc hread ⟨rfl, rfl, hw.trans (Work.touch_keepsBut [.pk] w) (by decide) (by decide)⟩

/-- Settles O37: the step is taken when the timer has expired. -/
theorem ackTimeoutOutcomes : Obligations.AckTimeoutOutcomes := by
  unfold Obligations.AckTimeoutOutcomes
  intro k s c hc hs
  refine ⟨fun harmed hzero => ?_, fun hrunning => State.turn_waits hc (Ctx.ackTimeout_waits ?_)⟩
  · exact State.turn_became hc (Ctx.ackTimeout_expired hs (Ctx.timerExpired_iff.mpr ⟨harmed, hzero⟩))
      ⟨rfl, rfl, .refl _ _⟩
  · rw [Ctx.timerExpired_iff]
    rintro ⟨harmed, hzero⟩
    obtain hdisarmed | hpos := hrunning
    · rw [harmed] at hdisarmed; cases hdisarmed
    · exact hpos hzero

/-- Settles O38: below the last number the count does not wrap. -/
theorem nextChunkOutcomes : Obligations.NextChunkOutcomes := by
  unfold Obligations.NextChunkOutcomes
  intro k s c hc hs
  refine ⟨fun hlt => ?_, fun hmax => State.turn_refuses hc (Ctx.nextChunk_overflow hs hmax)⟩
  have hq : c.seqCtr ≠ 0xFFFFFFFF#32 := fun h => by rw [h] at hlt; exact absurd hlt (by decide)
  obtain ⟨t, ht, hbecame⟩ := State.turn_became hc (Ctx.nextChunk_ok hs hq) ⟨rfl, rfl, .refl [] _⟩
  exact ⟨t, c.seqCtr + 1#32, ht, Ctx.seqCtr_succ_toNat hq, hbecame⟩

/-- Settles O48: the step and the frame's instruction are both the matcher's verdict on the packet decoded. -/
theorem stepRunsFrameAtSender : Obligations.StepRunsFrameAtSender := by
  unfold Obligations.StepRunsFrameAtSender
  intro s k c b frame rest ms i moves hsched hc hs hx hin hl hd
  obtain ⟨p, hp, rfl, hframe⟩ := decode_frame_eq_ok.mp hd
  have verdict {c1 : Ctx} (hread : c.ackRead s.params = .ok (c1.ackPacket p)) (hx1 : c1.rxState ≠ .serving)
      (hs1 : c1.txState = .awaitingAck) :
      step s = exec (frameInstr p) { s.setCtx k c1 with sched := moves, cur := k } := by
    have hc1 : State.ctx? { s.setCtx k c1 with sched := moves, cur := k } k = some c1 := State.ctx?_setCtx_self hc
    rw [step_cons hsched, exec_frameInstr, State.receive_waiting hc1 hx1 hs1]
    exact (State.turn_took (s := { s with sched := moves }) hc hread).trans (by simp [State.setCtx])
  refine ⟨fun hf hb => ⟨_, c.work.readPacket_keepsBut, verdict ?perRead hx hs⟩,
    fun hf hb hr => ⟨_, c.work.readPacket_keepsBut, verdict ?reassemble hx hs⟩⟩
  case perRead => exact Ctx.ackRead_perRead_ok hf hs hin hl (hb ▸ hframe ▸ decodePacket_frameOf p rest hp)
  case reassemble => exact Ctx.ackRead_reassemble_frame hf hs hin hl hp (hb.trans hframe) hr

/-- Settles O49: a step is its move, and a move changes `tx_state` along a row of the table or by a reset. -/
theorem txTransitions : Obligations.TxTransitions := by
  unfold Obligations.TxTransitions
  intro s t k c c' h hc hc' hne
  obtain ⟨-, rfl⟩ | ⟨m, rest, hsched, hm⟩ := step_cases h
  · rw [hc] at hc'
    cases hc'
    exact absurd rfl hne
  · exact ⟨m, rest, hsched, runMove_txEdge (s := { s with sched := rest }) hm hc hc' hne⟩

end Sys2Proof.Machine
end

section
/-! SUPPORT. The receiver's packets: what the handling of one packet makes of a context, one lemma per verdict, and of several in
order; one read at a receiver in either framing; and the row of R244 that each move takes. -/

namespace Sys2Proof.Machine

open Sys2Proof

variable {P : Params} {key : Option Block} {c c' : Ctx} {p : Packet}

/-! ### A packet that is reported and no more (R234, R236, R237) -/

theorem Ctx.handlePacket_badChecksum (h : crc32 p.payload ≠ p.checksum) :
    c.handlePacket P key p = .ok ((c.touch [.crc]).emit (evChecksumFail p.kind p.sequenceNumber p.payloadLength)) := by
  rw [Ctx.handlePacket, if_neg (mt (verifyPacket_iff p).mp h)]

theorem Ctx.handlePacket_ack (h : crc32 p.payload = p.checksum) (hk : p.kind = kindAck) :
    c.handlePacket P key p = .ok ((c.touch [.crc]).emit (evUnexpectedAck p.sequenceNumber p.payloadLength)) := by
  have hdata : p.kind ≠ kindData := by rw [hk]; decide
  rw [Ctx.handlePacket, if_pos ((verifyPacket_iff p).mpr h), if_neg hdata, if_pos hk]

theorem Ctx.handlePacket_unknownKind (h : crc32 p.payload = p.checksum) (hdata : p.kind ≠ kindData)
    (hack : p.kind ≠ kindAck) :
    c.handlePacket P key p = .ok ((c.touch [.crc]).emit (evUnknownKind p.kind p.sequenceNumber p.payloadLength)) := by
  rw [Ctx.handlePacket, if_pos ((verifyPacket_iff p).mpr h), if_neg hdata, if_neg hack]

/-! ### A verified Data packet (R235, R238, R243) -/

theorem Ctx.handlePacket_data (h : crc32 p.payload = p.checksum) (hk : p.kind = kindData) :
    c.handlePacket P key p = (c.touch [.crc]).handleData P key p := by
  rw [Ctx.handlePacket, if_pos ((verifyPacket_iff p).mpr h), if_pos hk]

/-- The events of an acknowledgment written with this answer. -/
def ackEvents (seq : Word) (a : TxAnswer) : List Event := if a = .ok then [] else [evAckWriteFail seq]

/-- The context that has written this acknowledgment, with this answer of the connection. -/
def Ctx.acked (seq : Word) (a : TxAnswer) (as : List TxAnswer) (c : Ctx) : Ctx :=
  { c.touch [.crc, .pk, .frame] with
    txAns := as, txOut := c.txOut ++ [⟨ackFrame seq, a⟩], evtOut := c.evtOut ++ ackEvents seq a }

theorem Ctx.sendAck_waits {seq : Word} (h : c.txAns = []) : c.sendAck seq = .error .waits := by
  simp only [Ctx.sendAck, Ctx.txWrite, Ctx.touch_txAns, h]

theorem Ctx.sendAck_answered {seq : Word} {a : TxAnswer} {as : List TxAnswer} (h : c.txAns = a :: as) :
    c.sendAck seq = .ok (c.acked seq a as) := by
  cases a with
  | ok =>
    simp only [Ctx.sendAck, Ctx.txWrite, Ctx.touch_txAns, h, Ctx.acked, ackEvents, if_true, List.append_nil]
    rfl
  | writeErr n =>
    simp only [Ctx.sendAck, Ctx.txWrite, Ctx.touch_txAns, h]
    rfl

/-- The plaintext handed out with a delivery (R238), `key` being `KEY`. -/
def plainOf (P : Params) (key : Block) (p : Packet) : List Plain :=
  if P.autoDecrypt ∧ 16 ≤ p.payload.length then
    [⟨p.sequenceNumber, cfbDec (blockEncOf P key) (blockOfBytes (p.payload.take 16)) (p.payload.drop 16)⟩]
  else []

/-- The event of a delivery whose payload is too short to decrypt (R238). -/
def decryptEvents (P : Params) (p : Packet) : List Event :=
  if P.autoDecrypt ∧ p.payload.length < 16 then [evDecryptFail p.sequenceNumber p.payloadLength] else []

/-- The context to whose host this packet has been delivered. -/
def Ctx.delivered (P : Params) (key : Block) (p : Packet) (w : Work) (c : Ctx) : Ctx :=
  { c with
    work := w
    pktOut := c.pktOut ++ [p]
    plainOut := c.plainOut ++ plainOf P key p
    evtOut := c.evtOut ++ [evData p.sequenceNumber p.payloadLength] ++ decryptEvents P p }

/-- A delivery is made where `KEY` is there for what is to be decrypted. -/
theorem Ctx.deliver_ok {k : Block} (hkey : P.autoDecrypt = true → key = some k) :
    ∃ w, c.deliver P key p = .ok (c.delivered P k p w) ∧ c.work.KeepsBut [.cipher] w := by
  cases hd : P.autoDecrypt with
  | false =>
    refine ⟨c.work, ?_, .refl _ _⟩
    simp [Ctx.deliver, Ctx.delivered, plainOf, decryptEvents, hd, Ctx.emit, Ctx.putPacket]
  | true =>
    rw [hkey hd]
    by_cases hl : p.payload.length < 16
    · refine ⟨c.work, ?_, .refl _ _⟩
      simp [Ctx.deliver, Ctx.delivered, plainOf, decryptEvents, hd, openBytes_short _ hl, hl, Ctx.emit, Ctx.putPacket]
    · have hlong : 16 ≤ p.payload.length := Nat.not_lt.mp hl
      refine ⟨c.work.touch [.cipher], ?_, Work.touch_keepsBut _ _⟩
      simp [Ctx.deliver, Ctx.delivered, plainOf, decryptEvents, hd, openBytes_long _ hlong, hl, hlong, Ctx.emit,
        Ctx.putPacket, Ctx.putPlain, Ctx.touch]

/-- A delivery is made, or has no meaning for want of `KEY`. -/
theorem Ctx.deliver_cases (P : Params) (key : Option Block) (p : Packet) (c : Ctx) :
    c.deliver P key p = .error (.refuses .keyNotLoaded) ∨ ∃ k w, c.deliver P key p = .ok (c.delivered P k p w) := by
  have made {k : Block} (hkey : P.autoDecrypt = true → key = some k) :
      ∃ k w, c.deliver P key p = .ok (c.delivered P k p w) := by
    obtain ⟨w, hok, -⟩ := Ctx.deliver_ok (c := c) (p := p) hkey
    exact ⟨k, w, hok⟩
  cases key with
  | some k => exact .inr (made fun _ => rfl)
  | none =>
    cases hd : P.autoDecrypt with
    | true => exact .inl (Ctx.deliver_noKey hd)
    | false => exact .inr (made (k := default) (by simp [hd]))

theorem Ctx.handlePacket_data_waits (h : crc32 p.payload = p.checksum) (hk : p.kind = kindData) (ha : c.txAns = []) :
    c.handlePacket P key p = .error .waits := by
  rw [Ctx.handlePacket_data h hk, Ctx.handleData, Ctx.sendAck_waits (c := c.touch [.crc]) ha]

/-- Once the connection answers, a verified Data packet is acknowledged and then delivered. -/
theorem Ctx.handlePacket_data_answered {a : TxAnswer} {as : List TxAnswer} (h : crc32 p.payload = p.checksum)
    (hk : p.kind = kindData) (ha : c.txAns = a :: as) :
    c.handlePacket P key p = ((c.touch [.crc]).acked p.sequenceNumber a as).deliver P key p := by
  rw [Ctx.handlePacket_data h hk, Ctx.handleData, Ctx.sendAck_answered (c := c.touch [.crc]) ha]

theorem Ctx.handlePacket_data_ok {k : Block} {a : TxAnswer} {as : List TxAnswer} (h : crc32 p.payload = p.checksum)
    (hk : p.kind = kindData) (ha : c.txAns = a :: as) (hkey : P.autoDecrypt = true → key = some k) :
    ∃ w, c.handlePacket P key p = .ok (((c.touch [.crc]).acked p.sequenceNumber a as).delivered P k p w) ∧
      c.work.KeepsBut [.crc, .pk, .frame, .cipher] w := by
  obtain ⟨w, hdeliver, hw⟩ := Ctx.deliver_ok (c := (c.touch [.crc]).acked p.sequenceNumber a as) (p := p) hkey
  have hacked : c.work.KeepsBut [.crc, .pk, .frame] ((c.work.touch [.crc]).touch [.crc, .pk, .frame]) :=
    (Work.touch_keepsBut [.crc] c.work).trans (Work.touch_keepsBut _ _) (by decide) (.refl _)
  exact ⟨w, (Ctx.handlePacket_data_answered h hk ha).trans hdeliver, hacked.trans hw (by decide) (by decide)⟩

theorem Ctx.handlePacket_data_noKey (h : crc32 p.payload = p.checksum) (hk : p.kind = kindData) (ha : c.txAns ≠ [])
    (hd : P.autoDecrypt = true) : c.handlePacket P none p = .error (.refuses .keyNotLoaded) := by
  obtain ⟨a, as, ha⟩ := List.exists_cons_of_ne_nil ha
  exact (Ctx.handlePacket_data_answered h hk ha).trans (Ctx.deliver_noKey hd)

/-! ### Any packet -/

/-- The packet is a Data packet with the right checksum, which a receiver acknowledges (R235). -/
def needsAck (p : Packet) : Bool := p.kind == 0x01#8 && crc32 p.payload == p.checksum

theorem needsAck_iff : needsAck p = true ↔ p.kind = kindData ∧ crc32 p.payload = p.checksum := by
  simp [needsAck, kindData]

/-- A packet that is not acknowledged is reported by one event, no `EV_DECODE_FAIL`, and by nothing else (R234 to R237). -/
theorem Ctx.handlePacket_reports (P : Params) (key : Option Block) (c : Ctx) (h : needsAck p = false) :
    ∃ e : Event, e.code ≠ 2#4 ∧ c.handlePacket P key p = .ok ((c.touch [.crc]).emit e) := by
  by_cases hv : crc32 p.payload = p.checksum
  · have hdata : p.kind ≠ kindData := fun hk => by simp [needsAck_iff.mpr ⟨hk, hv⟩] at h
    by_cases hack : p.kind = kindAck
    · exact ⟨_, by simp [evUnexpectedAck], Ctx.handlePacket_ack hv hack⟩
    · exact ⟨_, by simp [evUnknownKind], Ctx.handlePacket_unknownKind hv hdata hack⟩
  · exact ⟨_, by simp [evChecksumFail], Ctx.handlePacket_badChecksum hv⟩

/-- A packet's handling waits for the connection's answer to an acknowledgment alone (R278). -/
theorem Ctx.handlePacket_ne_waits (h : needsAck p = true → c.txAns ≠ []) : c.handlePacket P key p ≠ .error .waits := by
  cases hp : needsAck p with
  | false =>
    obtain ⟨e, -, hreported⟩ := Ctx.handlePacket_reports P key c hp
    simp [hreported]
  | true =>
    obtain ⟨hk, hv⟩ := needsAck_iff.mp hp
    obtain ⟨a, as, ha⟩ := List.exists_cons_of_ne_nil (h hp)
    rw [Ctx.handlePacket_data_answered hv hk ha]
    obtain hrefused | ⟨k, w, hdelivered⟩ := Ctx.deliver_cases P key p ((c.touch [.crc]).acked p.sequenceNumber a as)
    · simp [hrefused]
    · simp [hdelivered]

/-- What a packet's handling that completes makes of a context: the packet is reported, or acknowledged and delivered. -/
theorem Ctx.handlePacket_took (h : c.handlePacket P key p = .ok c') :
    (∃ e : Event, e.code ≠ 2#4 ∧ c' = (c.touch [.crc]).emit e) ∨
      ∃ a as k w, c.txAns = a :: as ∧ c' = ((c.touch [.crc]).acked p.sequenceNumber a as).delivered P k p w := by
  cases hp : needsAck p with
  | false =>
    obtain ⟨e, he, hreported⟩ := Ctx.handlePacket_reports P key c hp
    exact .inl ⟨e, he, Except.ok.inj (h.symm.trans hreported)⟩
  | true =>
    obtain ⟨hk, hv⟩ := needsAck_iff.mp hp
    cases ha : c.txAns with
    | nil => rw [Ctx.handlePacket_data_waits hv hk ha] at h; cases h
    | cons a as =>
      rw [Ctx.handlePacket_data_answered hv hk ha] at h
      obtain hrefused | ⟨k, w, hdelivered⟩ := Ctx.deliver_cases P key p ((c.touch [.crc]).acked p.sequenceNumber a as)
      · rw [hrefused] at h; cases h
      · exact .inr ⟨a, as, k, w, rfl, Except.ok.inj (h.symm.trans hdelivered)⟩

/-- A packet is handled once the connection has the answer and `KEY` is there that it needs; it takes as many answers as
it is acknowledged. -/
theorem Ctx.handlePacket_ok {k : Block} (hans : acksFor [p] ≤ c.txAns.length)
    (hkey : P.autoDecrypt = true → 0 < acksFor [p] → key = some k) :
    ∃ c', c.handlePacket P key p = .ok c' ∧ c'.txAns = c.txAns.drop (acksFor [p]) := by
  have hacks : acksFor [p] = if needsAck p then 1 else 0 := List.countP_singleton
  cases hp : needsAck p with
  | false =>
    obtain ⟨e, -, hreported⟩ := Ctx.handlePacket_reports P key c hp
    exact ⟨_, hreported, by simp [hacks, hp]⟩
  | true =>
    simp only [hacks, hp, if_true] at hans hkey ⊢
    obtain ⟨hk, hv⟩ := needsAck_iff.mp hp
    obtain ⟨a, as, ha⟩ := List.exists_cons_of_length_pos hans
    obtain ⟨w, hok, -⟩ := Ctx.handlePacket_data_ok hv hk ha fun hd => hkey hd Nat.one_pos
    exact ⟨_, hok, by rw [ha]; rfl⟩

/-- What the handling of packets leaves of a context as it was, and that it raises no `EV_DECODE_FAIL`. -/
structure Ctx.Handled (c c' : Ctx) : Prop where
  rxState : c'.rxState = c.rxState
  rxbuf : c'.rxbuf = c.rxbuf
  rxIn : c'.rxIn = c.rxIn
  events : ∃ evs, c'.evtOut = c.evtOut ++ evs ∧ ∀ e ∈ evs, e.code ≠ 2#4

theorem Ctx.Handled.refl (c : Ctx) : c.Handled c := ⟨rfl, rfl, rfl, [], by simp, by simp⟩

theorem Ctx.Handled.trans {c1 c2 c3 : Ctx} (h : c1.Handled c2) (g : c2.Handled c3) : c1.Handled c3 := by
  obtain ⟨evs1, e1, h1⟩ := h.events
  obtain ⟨evs2, e2, h2⟩ := g.events
  exact ⟨g.rxState.trans h.rxState, g.rxbuf.trans h.rxbuf, g.rxIn.trans h.rxIn, evs1 ++ evs2,
    by rw [e2, e1, List.append_assoc], List.forall_mem_append.mpr ⟨h1, h2⟩⟩

theorem Ctx.handlePacket_handled (h : c.handlePacket P key p = .ok c') : c.Handled c' := by
  obtain ⟨e, he, rfl⟩ | ⟨a, as, k, w, -, rfl⟩ := Ctx.handlePacket_took h
  · exact ⟨rfl, rfl, rfl, [e], rfl, by simpa using he⟩
  · refine ⟨rfl, rfl, rfl,
      ackEvents p.sequenceNumber a ++ ([evData p.sequenceNumber p.payloadLength] ++ decryptEvents P p), ?_, ?_⟩
    · simp [Ctx.delivered, Ctx.acked]
    · unfold ackEvents decryptEvents
      split_ifs <;> simp [evAckWriteFail, evData, evDecryptFail]

/-! ### A frame row at a serving receiver (R83, R234) -/

theorem Ctx.receive_serving (hs : c.rxState = .serving) : c.receive P key p = c.handlePacket P key p := if_pos hs

/-- A packet that is reported and no more, read by the context `cur`. -/
theorem State.receive_reports {s : State} {e : Event} (hc : s.ctx? s.cur = some c) (hs : c.rxState = .serving)
    (h : c.handlePacket s.params s.cipherKey p = .ok ((c.touch [.crc]).emit e)) :
    ∃ t, s.receive p = .next t ∧
      State.CtxBecame s.cur c { c.view with evtOut := c.evtOut ++ [e] } c.inputs [.crc] s t :=
  State.turn_became hc ((Ctx.receive_serving hs).trans h) ⟨rfl, rfl, Work.touch_keepsBut [.crc] _⟩

/-- A turn of a context is a turn of what the context would be, where the two answer the same and do not wait. -/
theorem State.turn_eq_turn_setCtx {k : Nat} {s : State} {c1 : Ctx} {f g : Ctx → Turn} (hc : s.ctx? k = some c)
    (hfg : f c = g c1) (hw : f c ≠ .error .waits) : s.turn k f = State.turn k g { s.setCtx k c1 with cur := k } := by
  have hc1 : State.ctx? { s.setCtx k c1 with cur := k } k = some c1 := State.ctx?_setCtx_self hc
  cases hf : f c with
  | ok c2 =>
    rw [State.turn_took hc hf, State.turn_took hc1 (hfg.symm.trans hf)]
    simp [State.setCtx]
  | error e =>
    cases e with
    | waits => exact absurd hf hw
    | refuses r => rw [State.turn_refuses hc hf, State.turn_refuses hc1 (hfg.symm.trans hf)]

/-! ### Packets in order (R239) -/

/-- The handling of these packets, in order. -/
def Ctx.handlePackets (P : Params) (key : Option Block) (ps : List Packet) (c : Ctx) : Turn :=
  ps.foldlM (fun x p => x.handlePacket P key p) c

theorem Ctx.handlePackets_cons_eq_ok {ps : List Packet} :
    c.handlePackets P key (p :: ps) = .ok c' ↔
      ∃ c1, c.handlePacket P key p = .ok c1 ∧ c1.handlePackets P key ps = .ok c' := by
  rw [Ctx.handlePackets, List.foldlM_cons]
  cases h : c.handlePacket P key p with
  | error e => simp [bind, Except.bind]
  | ok c1 => simp [bind, Except.bind, Ctx.handlePackets]

theorem Ctx.handlePackets_handled : ∀ {ps : List Packet} {c : Ctx}, c.handlePackets P key ps = .ok c' → c.Handled c'
  | [], c, h => by cases h; exact .refl _
  | p :: ps, c, h => by
    obtain ⟨c1, h1, h2⟩ := Ctx.handlePackets_cons_eq_ok.mp h
    exact (Ctx.handlePacket_handled h1).trans (Ctx.handlePackets_handled h2)

theorem acksFor_cons (p : Packet) (ps : List Packet) : acksFor (p :: ps) = acksFor [p] + acksFor ps :=
  List.countP_append (l₁ := [p])

/-- Packets are handled once the connection has the answers and `KEY` is there that they need; they take one answer for each
that is acknowledged. -/
theorem Ctx.handlePackets_ok {k : Block} : ∀ {ps : List Packet} {c : Ctx}, acksFor ps ≤ c.txAns.length →
    (P.autoDecrypt = true → 0 < acksFor ps → key = some k) →
    ∃ c', c.handlePackets P key ps = .ok c' ∧ c'.txAns = c.txAns.drop (acksFor ps)
  | [], c, _, _ => ⟨c, rfl, rfl⟩
  | p :: ps, c, hans, hkey => by
    rw [acksFor_cons] at hans hkey ⊢
    obtain ⟨c1, h1, ha1⟩ := Ctx.handlePacket_ok (P := P) (key := key) (c := c) (p := p) (k := k) (by omega)
      fun hd hpos => hkey hd (by omega)
    obtain ⟨c2, h2, ha2⟩ := Ctx.handlePackets_ok (c := c1) (ps := ps) (by rw [ha1, List.length_drop]; omega)
      fun hd hpos => hkey hd (by omega)
    exact ⟨c2, Ctx.handlePackets_cons_eq_ok.mpr ⟨c1, h1, h2⟩, by rw [ha2, ha1, List.drop_drop]⟩

/-- Packets that are handled in order are handled by the loop of RxRead, which finds their frames. -/
theorem Ctx.handles_of_handlePackets : ∀ {ps : List Packet} {c : Ctx}, (∀ q ∈ ps, q.WellFormed) →
    c.handlePackets P key ps = .ok c' → Ctx.Handles P key ps c c'
  | [], c, _, h => fun r i w n hr _ => by
    cases h
    exact ⟨w, Ctx.rxFrames_noWholeFrame P key n hr, .refl _ _⟩
  | p :: ps, c, hq, h => fun r i w n hr hn => by
    obtain ⟨hp, hps⟩ := List.forall_mem_cons.mp hq
    obtain ⟨c1, h1, h2⟩ := Ctx.handlePackets_cons_eq_ok.mp h
    obtain ⟨n, rfl⟩ := Nat.exists_eq_succ_of_ne_zero (Nat.ne_zero_of_lt hn)
    have touched : w.KeepsBut packetRegs (w.touch [.pk]) := Work.touch_keepsBut_of_subset (by decide) w
    obtain ⟨w1, he1, hw1⟩ := Ctx.handlePacket_ignoresRx p h1 (framesOf ps ++ r) i (w.touch [.pk])
    obtain ⟨w2, he2, hw2⟩ := Ctx.handles_of_handlePackets hps h2 r i w1 n hr (Nat.le_of_succ_le_succ hn)
    exact ⟨w2, (Ctx.rxFrames_frameOf hp (framesOf_cons_append p ps r)).mpr ⟨_, he1, he2⟩,
      touched.trans (hw1.trans hw2 (.refl _) (.refl _)) (.refl _) (.refl _)⟩

/-! ### One read (R232, R233, R239 to R242) -/

/-- The loop of RxRead takes the frame at the front, handles it, and goes on if that completes. -/
theorem Ctx.rxFrames_frameOf_eq_bind {rest : Bytes} {n : Nat} (hp : p.WellFormed) (hb : c.rxbuf = frameOf p ++ rest) :
    Ctx.rxFrames P key (n + 1) c =
      ({ c with rxbuf := rest }.touch [.pk]).handlePacket P key p >>= Ctx.rxFrames P key n := by
  rw [Ctx.rxFrames, Ctx.deframe_frameOf hp hb]
  cases h : ({ c with rxbuf := rest }.touch [.pk]).handlePacket P key p <;> simp [h, bind, Except.bind]

section

variable {ms : List RxMsg}

theorem Ctx.rxRead_eof_perRead (hf : P.rxFraming = .perRead) (hs : c.rxState = .serving) (hin : c.rxIn = .eof :: ms) :
    c.rxRead P key = .ok { { c with rxIn := ms }.emit (evEos 0) with rxState := .closed } := by
  simp only [Ctx.rxRead_eof hs hin, Ctx.close, Ctx.residue, hf]

theorem Ctx.rxRead_readErr_perRead (hf : P.rxFraming = .perRead) (hs : c.rxState = .serving)
    (hin : c.rxIn = .readErr :: ms) :
    c.rxRead P key = .ok { { c with rxIn := ms }.emit evReadError with rxState := .closed } := by
  simp only [Ctx.rxRead_readErr hs hin, Ctx.close, hf]

theorem Ctx.rxRead_eof_reassemble (hf : P.rxFraming = .reassemble) (hs : c.rxState = .serving)
    (hin : c.rxIn = .eof :: ms) :
    c.rxRead P key =
      .ok { { c with rxIn := ms }.emit (evEos c.rxbuf.length) with rxbuf := [], rxState := .closed } := by
  simp only [Ctx.rxRead_eof hs hin, Ctx.close, Ctx.residue, hf]

theorem Ctx.rxRead_readErr_reassemble (hf : P.rxFraming = .reassemble) (hs : c.rxState = .serving)
    (hin : c.rxIn = .readErr :: ms) :
    c.rxRead P key = .ok { { c with rxIn := ms }.emit evReadError with rxbuf := [], rxState := .closed } := by
  simp only [Ctx.rxRead_readErr hs hin, Ctx.close, hf]

end

section

variable {b rest : Bytes} {ms : List RxMsg} (hs : c.rxState = .serving) (hin : c.rxIn = .read b :: ms)
  (hl : b.length ≤ P.rxBufBytes)
include hs hin hl

theorem Ctx.rxRead_perRead_error {e : FramingError} (hf : P.rxFraming = .perRead) (hd : decodePacket b = .error e) :
    c.rxRead P key = .ok (({ c with rxIn := ms }.touch [.rxRead]).emit (evDecodeFail e b.length)) := by
  rw [Ctx.rxRead_read hs hin hl, Ctx.rxBytes, hf]
  simp only [hd]

theorem Ctx.rxRead_perRead_ok {n : Nat} (hf : P.rxFraming = .perRead) (hd : decodePacket b = .ok (p, n)) :
    c.rxRead P key = (c.withRx c.rxbuf ms c.work.readPacket).handlePacket P key p := by
  rw [Ctx.rxRead_read hs hin hl, Ctx.rxBytes, hf]
  simp only [hd]
  rfl

/-- Where one whole frame and an incomplete rest are held and read, RxRead is the handling of its packet. -/
theorem Ctx.rxRead_reassemble_frame (hf : P.rxFraming = .reassemble) (hp : p.WellFormed)
    (hb : c.rxbuf ++ b = frameOf p ++ rest) (hr : noWholeFrame rest) :
    c.rxRead P key = (c.withRx rest ms c.work.readPacket).handlePacket P key p := by
  obtain ⟨n, hn⟩ : ∃ n, (c.rxbuf ++ b).length = n + 1 := ⟨10 + p.payload.length + rest.length, by simp [hb]; omega⟩
  rw [Ctx.rxRead_reassemble hf hs hin hl, hn, Ctx.rxFrames_frameOf_eq_bind hp hb]
  change (c.withRx rest ms c.work.readPacket).handlePacket P key p >>= Ctx.rxFrames P key n = _
  cases h : (c.withRx rest ms c.work.readPacket).handlePacket P key p with
  | error e => rfl
  | ok c2 => exact Ctx.rxFrames_noWholeFrame P key n ((Ctx.handlePacket_handled h).rxbuf ▸ hr)

/-- A read that decodes, one read being one frame, makes of the context what the handling of its packet does, but for the
working registers. -/
theorem Ctx.rxRead_perRead_became {n : Nat} (hf : P.rxFraming = .perRead) (hd : decodePacket b = .ok (p, n))
    (h : { c with rxIn := ms }.handlePacket P key p = .ok c') :
    ∃ c2, c.rxRead P key = .ok c2 ∧ c.Became c'.view c'.inputs (.rxRead :: packetRegs) c2 := by
  obtain ⟨w, hok, hw⟩ := Ctx.handlePacket_ignoresRx p h c.rxbuf ms c.work.readPacket
  have hkept := Ctx.handlePacket_handled h
  refine ⟨_, (Ctx.rxRead_perRead_ok hs hin hl hf hd).trans hok, ?_, ?_,
    c.work.readPacket_keepsBut.trans hw (by decide) (by decide)⟩
  · exact congrArg (fun r => { c'.view with rxbuf := r }) hkept.rxbuf.symm
  · exact congrArg (fun i => { c'.inputs with rxIn := i }) hkept.rxIn.symm

/-- A read that completes a run of frames makes of the context what the handling of their packets, in order, does, but for
the working registers. -/
theorem Ctx.rxRead_reassemble_became {ps : List Packet} (hf : P.rxFraming = .reassemble) (hq : ∀ q ∈ ps, q.WellFormed)
    (hb : c.rxbuf ++ b = framesOf ps ++ rest) (hr : noWholeFrame rest)
    (h : { c with rxIn := ms, rxbuf := rest }.handlePackets P key ps = .ok c') :
    ∃ c2, c.rxRead P key = .ok c2 ∧ c.Became c'.view c'.inputs (.rxRead :: packetRegs) c2 := by
  obtain ⟨w, hok, hw⟩ := (Ctx.handles_of_handlePackets hq h).rxRead hf hs hl hb hr ms c.work
  have hkept := Ctx.handlePackets_handled h
  have hc : { c with rxIn := ms, rxbuf := rest }.withRx c.rxbuf (.read b :: ms) c.work = c := by rw [← hin]; rfl
  rw [hc] at hok
  refine ⟨_, hok, ?_, ?_, hw⟩
  · exact congrArg (fun r => { c'.view with rxbuf := r }) hkept.rxbuf.symm
  · exact congrArg (fun i => { c'.inputs with rxIn := i }) hkept.rxIn.symm

/-- A read takes its message, the answers for the packets it shows, and stays in `Serving`, once the answers and `KEY` are
there that these packets need (R244). -/
theorem Ctx.rxRead_shows {ps : List Packet} {k : Block} (hshows : c.shows P b ps) (hans : acksFor ps ≤ c.txAns.length)
    (hkey : P.autoDecrypt = true → 0 < acksFor ps → key = some k) :
    ∃ c2, c.rxRead P key = .ok c2 ∧ c2.rxState = .serving ∧ c2.rxIn = ms ∧ c2.txAns = c.txAns.drop (acksFor ps) := by
  have kept {c1 c2 c' : Ctx} {regs : List WorkReg} (hb : c.Became c'.view c'.inputs regs c2) (hk : c1.Handled c')
      (hs1 : c1.rxState = .serving) (hin1 : c1.rxIn = ms) (ha : c'.txAns = c.txAns.drop (acksFor ps)) :
      c2.rxState = .serving ∧ c2.rxIn = ms ∧ c2.txAns = c.txAns.drop (acksFor ps) := by
    obtain ⟨hview, hinputs, -⟩ := hb
    exact ⟨(congrArg Ctx.View.rxState hview).trans (hk.rxState.trans hs1),
      (congrArg Ctx.Inputs.rxIn hinputs).trans (hk.rxIn.trans hin1), (congrArg Ctx.Inputs.txAns hinputs).trans ha⟩
  unfold Ctx.shows at hshows
  cases hf : P.rxFraming with
  | perRead =>
    simp only [hf] at hshows
    cases hd : decodePacket b with
    | error e =>
      simp only [hd] at hshows
      subst hshows
      exact ⟨_, Ctx.rxRead_perRead_error hs hin hl hf hd, hs, rfl, rfl⟩
    | ok q =>
      obtain ⟨p, n⟩ := q
      simp only [hd] at hshows
      subst hshows
      obtain ⟨c', hh, ha⟩ := Ctx.handlePacket_ok (c := { c with rxIn := ms }) hans hkey
      obtain ⟨c2, hread, hb⟩ := Ctx.rxRead_perRead_became hs hin hl hf hd hh
      exact ⟨c2, hread, kept hb (Ctx.handlePacket_handled hh) hs rfl ha⟩
  | reassemble =>
    simp only [hf] at hshows
    obtain ⟨hq, rest, hb, hr⟩ := hshows
    obtain ⟨c', hh, ha⟩ := Ctx.handlePackets_ok (c := { c with rxIn := ms, rxbuf := rest }) hans hkey
    obtain ⟨c2, hread, hb⟩ := Ctx.rxRead_reassemble_became hs hin hl hf hq hb hr hh
    exact ⟨c2, hread, kept hb (Ctx.handlePackets_handled hh) hs rfl ha⟩

end

/-! ### The rows of R244 -/

section

variable {s t : State} {k : Nat}

theorem Ctx.Failed.rxState (h : c.Failed P c') : c'.rxState = c.rxState := by
  obtain ⟨c1, e, -, rfl, hv⟩ := h
  exact congrArg Ctx.View.rxState hv

theorem Ctx.sendChunk_rxState (h : c.sendChunk P key = .ok c') : c'.rxState = c.rxState := by
  obtain ⟨-, hfailed | ⟨c1, hv, rfl⟩ | ⟨c1, f, a, -, hv, ⟨-, rfl⟩ | rfl⟩⟩ := Ctx.sendChunk_cases h
  · exact hfailed.rxState
  all_goals exact congrArg Ctx.View.rxState hv

theorem Ctx.ackRead_rxState (h : c.ackRead P = .ok c') : c'.rxState = c.rxState := by
  obtain ⟨-, hfailed | ⟨c1, hv, hloop, -⟩⟩ := Ctx.ackRead_cases h
  · exact hfailed.rxState
  · exact hloop.rxState.trans (congrArg Ctx.View.rxState hv)

theorem Ctx.ackTimeout_rxState (h : c.ackTimeout = .ok c') : c'.rxState = c.rxState := by
  obtain ⟨-, -, rfl⟩ := Ctx.ackTimeout_took h
  rfl

theorem Ctx.nextChunk_rxState (h : c.nextChunk = .ok c') : c'.rxState = c.rxState := by
  obtain ⟨-, -, rfl⟩ := Ctx.nextChunk_took h
  rfl

@[simp] theorem Ctx.close_rxState (P : Params) (c : Ctx) (e : Event) : (c.close P e).rxState = .closed := by
  unfold Ctx.close; split <;> rfl

theorem Ctx.rxRead_edge (h : c.rxRead s.params key = .ok c') (hne : c'.rxState ≠ c.rxState) :
    RxEdge s (.rxRead k) k c c.rxState c'.rxState := by
  obtain ⟨hs, ⟨ms, hin, rfl⟩ | ⟨ms, hin, rfl⟩ | ⟨b, ms, -, -, hread⟩⟩ := Ctx.rxRead_took h
  · rw [hs, Ctx.close_rxState]
    exact ⟨rfl, .inl (by rw [hin]; rfl)⟩
  · rw [hs, Ctx.close_rxState]
    exact ⟨rfl, .inr (by rw [hin]; rfl)⟩
  · exact absurd (Ctx.rxBytes_keeps hread).1.rxState hne

/-- A move that changes `rx_state` of a context is a reset of it, or a row of R244. -/
theorem runMove_rxEdge {m : Move} (h : runMove m s = .next t) (hc : s.ctx? k = some c) (hc' : t.ctx? k = some c')
    (hne : c'.rxState ≠ c.rxState) : m.resets k = true ∨ RxEdge s m k c c.rxState c'.rxState := by
  have turned {j : Nat} {f : Ctx → Turn} (h : s.turn j f = .next t) : j = k ∧ f c = .ok c' :=
    (State.turn_ctx h hc hc').resolve_left fun heq => hne (heq ▸ rfl)
  have offered {j : Nat} {f : Ctx → Ctx} (h : s.onCtx j f = .next t) (hf : (f c).rxState = c.rxState) : False := by
    obtain rfl | ⟨-, rfl⟩ := State.onCtx_ctx h hc hc'
    · exact hne rfl
    · exact hne hf
  cases m with
  | host j =>
    obtain hports | ⟨-, -, -, hstart⟩ | ⟨hcmd, hrole, hidle, hstart⟩ := State.takeCommand_ctx h hc hc'
    · exact absurd (congrArg Ctx.View.rxState hports) hne
    · exact absurd (congrArg Ctx.View.rxState hstart) hne
    · have hserving : c'.rxState = .serving := congrArg Ctx.View.rxState hstart
      rw [hidle, hserving]
      exact .inr ⟨hrole, hcmd⟩
  | sendChunk j => exact absurd (Ctx.sendChunk_rxState (turned h).2) hne
  | ackRead j => exact absurd (Ctx.ackRead_rxState (turned h).2) hne
  | ackTimeout j => exact absurd (Ctx.ackTimeout_rxState (turned h).2) hne
  | nextChunk j => exact absurd (Ctx.nextChunk_rxState (turned h).2) hne
  | rxRead j =>
    obtain ⟨rfl, htook⟩ := turned h
    exact .inr (Ctx.rxRead_edge htook hne)
  | tick =>
    cases h
    rw [State.ctx?_eq, List.getElem?_map, ← State.ctx?_eq, hc] at hc'
    cases hc'
    exact absurd c.tick_rxState hne
  | resetCtx j discard =>
    obtain rfl | ⟨rfl, -⟩ := State.onCtx_ctx h hc hc'
    · exact absurd rfl hne
    · exact .inl (beq_self_eq_true j)
  | resetAll => exact .inl rfl
  | loadKey key =>
    obtain ⟨-, -, -, rfl⟩ := State.loadKey_next h
    exact absurd (congrArg Ctx.rxState (Option.some.inj (hc'.symm.trans hc))) hne
  | offerCmd | offerRng | offerChunk | answerTx | offerRx => exact (offered h rfl).elim

end

end Sys2Proof.Machine
end

section
/-! The receiver sequencer (44_receiver.md): its start, frames at a serving receiver, its step, and its transitions. -/

namespace Sys2Proof.Machine

open Sys2Proof

/-- Settles O28: by what the packet finds in the context: an answer and the key, an answer alone, or no answer. -/
theorem dataFrameAtReceiver : Obligations.DataFrameAtReceiver := by
  unfold Obligations.DataFrameAtReceiver
  intro seq cks len b s c hc hs hv
  let p := packetOf kindData seq cks len b
  refine ⟨fun hkey a as ha => ?handled, fun hd hkey ha => ?noKey, fun ha => ?waits⟩
  case handled =>
    obtain ⟨w, hok, hw⟩ := Ctx.handlePacket_data_ok (P := s.params) (key := s.cipherKey) (p := p) hv rfl ha
      fun hd => State.cipherKey_loaded (hkey hd)
    have hack : ackFrame seq = [0x02#8] ++ be32 seq ++ [0x00#8, 0x00#8, 0x00#8, 0x00#8] ++ [0x00#8, 0x00#8] := by
      simp [ackFrame, makeAck, packetOf, frameBytes, emptyChecksumIsZero.1, kindAck, be32, be16]
    refine State.turn_became hc ((Ctx.receive_serving hs).trans hok) ⟨?_, rfl, hw⟩
    rw [← hack]
    rfl
  case noKey =>
    have hrefused := Ctx.handlePacket_data_noKey (P := s.params) (p := p) hv rfl ha hd
    rw [← State.cipherKey_notLoaded hkey] at hrefused
    exact State.turn_refuses hc ((Ctx.receive_serving hs).trans hrefused)
  case waits =>
    exact State.turn_waits hc ((Ctx.receive_serving hs).trans (Ctx.handlePacket_data_waits (p := p) hv rfl ha))

/-- Settles O31: the checksum is looked at before the kind, in each row. -/
theorem badChecksumAtReceiver : Obligations.BadChecksumAtReceiver := by
  unfold Obligations.BadChecksumAtReceiver
  intro kind seq cks len b s c hc hs hv
  have row (kind : Byte) := State.receive_reports hc hs
    (Ctx.handlePacket_badChecksum (P := s.params) (key := s.cipherKey) (c := c) (p := packetOf kind seq cks len b) hv)
  exact ⟨row kindData, row kindAck, row kind⟩

/-- Settles O40: by the message taken, and for a read by what it decodes to. -/
theorem rxReadPerRead : Obligations.RxReadPerRead := by
  unfold Obligations.RxReadPerRead
  intro k s c ms hc hs hf
  refine ⟨fun hin => ?eof, fun hin => ?readErr, fun b hin hl =>
    ⟨fun hd => ?short, fun hd => ?truncated, fun p n c' hd hh => ?frame⟩⟩
  case eof => exact State.turn_became hc (Ctx.rxRead_eof_perRead hf hs hin) ⟨rfl, rfl, .refl _ _⟩
  case readErr => exact State.turn_became hc (Ctx.rxRead_readErr_perRead hf hs hin) ⟨rfl, rfl, .refl _ _⟩
  case short =>
    exact State.turn_became hc (Ctx.rxRead_perRead_error hs hin hl hf hd) ⟨rfl, rfl, Work.touch_keepsBut [.rxRead] _⟩
  case truncated =>
    exact State.turn_became hc (Ctx.rxRead_perRead_error hs hin hl hf hd) ⟨rfl, rfl, Work.touch_keepsBut [.rxRead] _⟩
  case frame =>
    obtain ⟨c2, hread, hbecame⟩ := Ctx.rxRead_perRead_became hs hin hl hf hd hh
    exact State.turn_became hc hread hbecame

/-- Settles O41: the packets handled in order are those that the loop finds in the bytes held and read. -/
theorem rxReadReassemble : Obligations.RxReadReassemble := by
  unfold Obligations.RxReadReassemble
  intro k s c ms hc hs hf
  refine ⟨fun hin => ?eof, fun hin => ?readErr, fun b hin hl ps rest c' hq hb hr hh => ?frames⟩
  case eof => exact State.turn_became hc (Ctx.rxRead_eof_reassemble hf hs hin) ⟨rfl, rfl, .refl _ _⟩
  case readErr => exact State.turn_became hc (Ctx.rxRead_readErr_reassemble hf hs hin) ⟨rfl, rfl, .refl _ _⟩
  case frames =>
    obtain ⟨c2, hread, hbecame⟩ := Ctx.rxRead_reassemble_became hs hin hl hf hq hb hr hh
    exact ⟨State.turn_became hc hread hbecame, (Ctx.handlePackets_handled hh).events⟩

/-- Settles O47: the step and the frame's instruction are both the handling of the packet decoded, which does not wait. -/
theorem stepRunsFrameAtReceiver : Obligations.StepRunsFrameAtReceiver := by
  unfold Obligations.StepRunsFrameAtReceiver
  intro s k c b frame rest ms i moves hsched hc hs hans hin hl hd
  obtain ⟨p, hp, rfl, hframe⟩ := decode_frame_eq_ok.mp hd
  have hans : needsAck p = true → c.txAns ≠ [] := fun hack => by
    obtain ⟨hk, hv⟩ := needsAck_iff.mp hack
    exact hans p.sequenceNumber p.payloadLength p.payload (by rw [frameInstr, if_pos hk, hv])
  have handled {c1 : Ctx} (hread : c.rxRead s.params s.cipherKey = c1.handlePacket s.params s.cipherKey p)
      (hs1 : c1.rxState = .serving) (hans1 : c1.txAns = c.txAns) :
      step s = exec (frameInstr p) { s.setCtx k c1 with sched := moves, cur := k } := by
    rw [step_cons hsched, exec_frameInstr]
    exact State.turn_eq_turn_setCtx (s := { s with sched := moves }) hc
      (hread.trans (Ctx.receive_serving hs1).symm) (hread ▸ Ctx.handlePacket_ne_waits (hans1 ▸ hans))
  refine ⟨fun hf hb => ⟨_, c.work.readPacket_keepsBut, handled ?perRead hs rfl⟩,
    fun hf hb hr => ⟨_, c.work.readPacket_keepsBut, handled ?reassemble hs rfl⟩⟩
  case perRead => exact Ctx.rxRead_perRead_ok hs hin hl hf (hb ▸ hframe ▸ decodePacket_frameOf p rest hp)
  case reassemble => exact Ctx.rxRead_reassemble_frame hs hin hl hf hp (hb.trans hframe) hr

/-- Settles O50: a step is its move, and a move changes `rx_state` along a row of the table or by a reset; a read is the
handling of the packets it shows, which keeps `Serving`. -/
theorem rxTransitions : Obligations.RxTransitions := by
  unfold Obligations.RxTransitions
  refine ⟨fun s t k c c' h hc hc' hne => ?_, fun s k c b ms ps hc hs hin hl hshows hans hkey => ?_⟩
  · obtain ⟨-, rfl⟩ | ⟨m, rest, hsched, hm⟩ := step_cases h
    · rw [hc] at hc'
      cases hc'
      exact absurd rfl hne
    · exact ⟨m, rest, hsched, runMove_rxEdge (s := { s with sched := rest }) hm hc hc' hne⟩
  · obtain ⟨c', hread, hs', hms, hans'⟩ := Ctx.rxRead_shows (k := s.key) hs hin hl hshows hans
      fun hd hpos => State.cipherKey_loaded (hkey hd hpos)
    exact ⟨_, c', State.turn_took hc hread, State.ctx?_setCtx_self hc, hs', hms, hans'⟩

/-- Settles O25: the start and the answer are two changes of the context list; a refusal is the answer alone. -/
theorem serveStarts : Obligations.ServeStarts := by
  unfold Obligations.ServeStarts
  intro k s c d hc hd
  refine ⟨fun hidle => ?_, fun hbusy => ?_⟩
  · rw [exec_serve hc, if_pos hidle]
    exact State.reply_eq_modify _ (by simpa using State.ctx?_lt hd)
  · rw [exec_serve hc, if_neg hbusy]
    exact State.perform_ok hd rfl

/-- Settles O29: a verified packet of kind Acknowledgment is reported. -/
theorem ackFrameAtReceiver : Obligations.AckFrameAtReceiver := by
  unfold Obligations.AckFrameAtReceiver
  intro seq cks len b s c hc hs hv
  exact State.receive_reports hc hs (Ctx.handlePacket_ack (p := packetOf kindAck seq cks len b) hv rfl)

/-- Settles O30: a verified packet of neither kind is reported. -/
theorem unknownFrameAtReceiver : Obligations.UnknownFrameAtReceiver := by
  unfold Obligations.UnknownFrameAtReceiver
  intro kind seq cks len b s c hc hs hv hdata hack
  exact State.receive_reports hc hs (Ctx.handlePacket_unknownKind (p := packetOf kind seq cks len b) hv hdata hack)

end Sys2Proof.Machine
end

section
/-! SUPPORT. The acknowledgment timer: what a tick makes of it, and that a change of a waiting context leaves it running
(R285 to R287). -/

namespace Sys2Proof.Machine

open Sys2Proof

variable {P : Params} {key : Option Block} {c c' : Ctx}

/-! ### A tick (R287) -/

theorem Ctx.tick_running (ha : c.timerArmed = true) (ht : 0 < c.ackTimer) :
    c.tick = { c with ackTimer := c.ackTimer - 1 } := by
  simp [Ctx.tick, ha, ht]

theorem Ctx.tick_stopped (h : c.timerArmed = false ∨ c.ackTimer = 0) : c.tick = c := by
  obtain h | h := h <;> simp [Ctx.tick, h]

/-- A tick leaves the value of a timer, or takes one from it. -/
theorem Ctx.tick_ackTimer (c : Ctx) : c.tick.ackTimer = c.ackTimer ∨ c.tick.ackTimer + 1 = c.ackTimer := by
  by_cases hrun : c.timerArmed = true ∧ 0 < c.ackTimer
  · obtain ⟨ha, ht⟩ := hrun
    rw [Ctx.tick_running ha ht]
    exact .inr (Nat.succ_pred_eq_of_pos ht)
  · rw [Ctx.tick_stopped (by simpa [imp_iff_not_or] using hrun)]
    exact .inl rfl

theorem State.ctx?_tick {s : State} {k : Nat} (hc : s.ctx? k = some c) :
    State.ctx? { s with ctxs := s.ctxs.map Ctx.tick } k = some c.tick := by
  rw [State.ctx?_eq, List.getElem?_map, ← State.ctx?_eq, hc, Option.map_some]

/-! ### A change of a waiting context (R286) -/

/-- The timer is armed as before and has its value as before. -/
structure Ctx.SameTimer (c c' : Ctx) : Prop where
  timerArmed : c'.timerArmed = c.timerArmed
  ackTimer : c'.ackTimer = c.ackTimer

theorem Ctx.SameTimer.of_view {v : Ctx.View} (h : c'.view = v) (ha : v.timerArmed = c.timerArmed)
    (ht : v.ackTimer = c.ackTimer) : c.SameTimer c' :=
  ⟨(congrArg Ctx.View.timerArmed h).trans ha, (congrArg Ctx.View.ackTimer h).trans ht⟩

/-- Contexts of the same view have the same timer. -/
theorem Ctx.SameTimer.after_view {c1 : Ctx} (h : c1.SameTimer c') (hv : c1.view = c.view) : c.SameTimer c' :=
  ⟨h.timerArmed.trans (congrArg Ctx.View.timerArmed hv), h.ackTimer.trans (congrArg Ctx.View.ackTimer hv)⟩

theorem Ctx.SameRegs.sameTimer (h : c.SameRegs c') : c.SameTimer c' := ⟨h.timerArmed, h.ackTimer⟩

/-- A loop of AckRead that does not end the wait leaves the timer running. -/
theorem Ctx.AckLoop.sameTimer (h : c.AckLoop c') (hw : c'.txState = .awaitingAck) : c.SameTimer c' := by
  obtain ⟨hacked, -⟩ | ⟨-, harmed⟩ := h.ends
  · rw [hacked] at hw; cases hw
  · exact ⟨harmed, h.ackTimer⟩

theorem Ctx.close_sameTimer (P : Params) (e : Event) (c : Ctx) : c.SameTimer (c.close P e) := by
  unfold Ctx.close; split <;> exact ⟨rfl, rfl⟩

theorem Ctx.Failed.txState (h : c.Failed P c') : c'.txState = .failed := by
  obtain ⟨c1, e, -, rfl, -⟩ := h
  rfl

theorem Ctx.ackRead_sameTimer (h : c.ackRead P = .ok c') (hw : c'.txState = .awaitingAck) : c.SameTimer c' := by
  obtain ⟨-, hfailed | ⟨c1, hview, hloop, -⟩⟩ := Ctx.ackRead_cases h
  · rw [hfailed.txState] at hw; cases hw
  · exact (hloop.sameTimer hw).after_view hview

theorem Ctx.rxRead_sameTimer (h : c.rxRead P key = .ok c') : c.SameTimer c' := by
  obtain ⟨-, ⟨c1, e, hview, rfl⟩ | ⟨hregs, -⟩⟩ := Ctx.rxRead_cases h
  · exact (c1.close_sameTimer P e).after_view hview
  · exact hregs.sameTimer

theorem Ctx.receive_sameTimer {p : Packet} (h : c.receive P key p = .ok c') (hw : c'.txState = .awaitingAck) :
    c.SameTimer c' := by
  obtain ⟨-, hregs, -⟩ | ⟨-, hloop, -⟩ := Ctx.receive_cases h
  · exact hregs.sameTimer
  · exact hloop.sameTimer hw

/-- A change of a context that waits before and after is a tick, or leaves the timer as it is: the one place where a timer is
loaded is the step that begins the wait (R285). -/
theorem Ctx.Change.tick_or_sameTimer (h : Ctx.Change P key c c') (hs : c.txState = .awaitingAck)
    (hw : c'.txState = .awaitingAck) : c' = c.tick ∨ c.SameTimer c' := by
  cases h with
  | ports _ hv => exact .inr (.of_view hv rfl rfl)
  | serve _ _ _ hv => exact .inr (.of_view hv rfl rfl)
  | ackRead _ h => exact .inr (Ctx.ackRead_sameTimer h hw)
  | rxRead _ h => exact .inr (Ctx.rxRead_sameTimer h)
  | receive _ p h => exact .inr (Ctx.receive_sameTimer h hw)
  | tick => exact .inl rfl
  | send _ _ hidle => rw [hs] at hidle; cases hidle
  | sendChunk _ h =>
    obtain ⟨hfetch, -⟩ := Ctx.sendChunk_took h
    rw [hs] at hfetch; cases hfetch
  | nextChunk _ h =>
    obtain ⟨hacked, -⟩ := Ctx.nextChunk_took h
    rw [hs] at hacked; cases hacked
  | ackTimeout _ h =>
    obtain ⟨-, hfailed⟩ := Ctx.ackTimeout_failed (P := P) h
    rw [hfailed.txState] at hw; cases hw

end Sys2Proof.Machine
end

section
/-! SUPPORT. What a receiver makes of a context with its plaintext reduced to numbers and lengths: `KEY` plays no part in it
(R279, R313). Two runs under two keys stay alike in all that the steps read and show, plaintext aside. -/

namespace Sys2Proof.Machine

open Sys2Proof

variable {P : Params} {k1 k2 : Block} {c d : Ctx} {p : Packet}

/-! ### The length of a plaintext (R148) -/

/-- `n` blocks of `CfbDec` give a byte for each byte of the ciphertext, up to 16 for each block (R148). -/
theorem cfbDecBlocks_length (enc : Block → Block) :
    ∀ (n : Nat) (fb : Block) (b : Bytes), (cfbDecBlocks enc n fb b).length = min b.length (16 * n)
  | 0, _, _ => by simp [cfbDecBlocks]
  | n + 1, fb, b => by
    rw [cfbDecBlocks_succ, List.length_append, feedbackBlock_length, cfbDecBlocks_length enc n, List.length_drop]
    omega

/-- `CfbDec` keeps the length (R148). -/
@[simp] theorem cfbDec_length (enc : Block → Block) (iv : Block) (b : Bytes) : (cfbDec enc iv b).length = b.length := by
  have hblocks := le_blockCount b.length
  rw [cfbDec, cfbDecBlocks_length]
  omega

/-! ### What of a context does not depend on `KEY` -/

/-- A context's view with the plaintext reduced to its numbers and lengths, and its pending inputs. -/
structure Ctx.KeyFree where
  view : Ctx.View
  plain : List (Word × Nat)
  inputs : Ctx.Inputs

/-- What of a context a receiver's steps make independent of `KEY` (R279). -/
def Ctx.keyFree (c : Ctx) : Ctx.KeyFree := ⟨c.view.withoutPlain.1, c.view.withoutPlain.2, c.inputs⟩

theorem Turn.publicView_eq_map_keyFree (t : Turn) :
    Turn.publicView t = (t.map Ctx.keyFree).map fun o => (o.view, o.plain) := by
  cases t <;> rfl

theorem Ctx.txAns_eq_of_keyFree_eq (h : c.keyFree = d.keyFree) : d.txAns = c.txAns :=
  congrArg (fun o => o.inputs.txAns) h.symm

theorem Ctx.rxbuf_eq_of_keyFree_eq (h : c.keyFree = d.keyFree) : d.rxbuf = c.rxbuf :=
  congrArg (fun o => o.view.rxbuf) h.symm

/-- An event raised in each of two alike contexts, whatever working registers are written, leaves them alike. -/
theorem Ctx.keyFree_emit (h : c.keyFree = d.keyFree) (regs : List WorkReg) (e : Event) :
    ((c.touch regs).emit e).keyFree = ((d.touch regs).emit e).keyFree :=
  congrArg (fun o => { o with view := { o.view with evtOut := o.view.evtOut ++ [e] } }) h

theorem Ctx.keyFree_rxbuf (h : c.keyFree = d.keyFree) (r : Bytes) (regs : List WorkReg) :
    ({ c with rxbuf := r }.touch regs).keyFree = ({ d with rxbuf := r }.touch regs).keyFree :=
  congrArg (fun o => { o with view := { o.view with rxbuf := r } }) h

theorem Ctx.keyFree_acked (h : c.keyFree = d.keyFree) (regs : List WorkReg) (seq : Word) (a : TxAnswer)
    (as : List TxAnswer) : ((c.touch regs).acked seq a as).keyFree = ((d.touch regs).acked seq a as).keyFree :=
  congrArg (fun o : Ctx.KeyFree =>
    { o with
      view := { o.view with
        txOut := o.view.txOut ++ [TxRecord.mk (ackFrame seq) a]
        evtOut := o.view.evtOut ++ ackEvents seq a }
      inputs := { o.inputs with txAns := as } }) h

/-- The number and the length of the plaintext of a packet. -/
def plainShape (P : Params) (p : Packet) : List (Word × Nat) :=
  if P.autoDecrypt ∧ 16 ≤ p.payload.length then [(p.sequenceNumber, p.payload.length - 16)] else []

theorem map_plainOf (P : Params) (key : Block) (p : Packet) :
    (plainOf P key p).map (fun x => (x.seq, x.bytes.length)) = plainShape P p := by
  unfold plainOf plainShape
  split <;> simp

theorem Ctx.keyFree_delivered (P : Params) (key : Block) (p : Packet) (w : Work) (c : Ctx) :
    (c.delivered P key p w).keyFree =
      { c.keyFree with
        view := { c.keyFree.view with
          pktOut := c.pktOut ++ [p]
          evtOut := c.evtOut ++ [evData p.sequenceNumber p.payloadLength] ++ decryptEvents P p }
        plain := c.keyFree.plain ++ plainShape P p } := by
  rw [← map_plainOf P key p]
  simp only [Ctx.keyFree, Ctx.View.withoutPlain, Ctx.view, Ctx.inputs, Ctx.delivered, List.map_append]

/-! ### Turns of alike contexts -/

/-- Turns that answer alike and go on alike from alike contexts end alike. -/
theorem Turn.map_keyFree_bind {t u : Turn} {f g : Ctx → Turn} (h : t.map Ctx.keyFree = u.map Ctx.keyFree)
    (hfg : ∀ c d, c.keyFree = d.keyFree → (f c).map Ctx.keyFree = (g d).map Ctx.keyFree) :
    (t >>= f).map Ctx.keyFree = (u >>= g).map Ctx.keyFree := by
  cases t with
  | ok c =>
    cases u with
    | ok d => exact hfg c d (Except.ok.inj h)
    | error e => cases h
  | error e =>
    cases u with
    | ok d => cases h
    | error e' => cases h; rfl

/-- A delivery under any key shows the packet, the same events, and a plaintext of the same number and length. -/
theorem Ctx.deliver_keyFree (h : c.keyFree = d.keyFree) :
    (c.deliver P (some k1) p).map Ctx.keyFree = (d.deliver P (some k2) p).map Ctx.keyFree := by
  obtain ⟨w1, h1, -⟩ := Ctx.deliver_ok (P := P) (c := c) (p := p) fun _ => (rfl : some k1 = some k1)
  obtain ⟨w2, h2, -⟩ := Ctx.deliver_ok (P := P) (c := d) (p := p) fun _ => (rfl : some k2 = some k2)
  have hpkt : c.pktOut = d.pktOut := congrArg (fun o => o.view.pktOut) h
  have hevt : c.evtOut = d.evtOut := congrArg (fun o => o.view.evtOut) h
  rw [h1, h2]
  exact congrArg Except.ok (by rw [Ctx.keyFree_delivered, Ctx.keyFree_delivered, h, hpkt, hevt])

/-- `KEY` is used by a delivery alone, after the acknowledgment. -/
theorem Ctx.handlePacket_keyFree (h : c.keyFree = d.keyFree) :
    (c.handlePacket P (some k1) p).map Ctx.keyFree = (d.handlePacket P (some k2) p).map Ctx.keyFree := by
  have reported (e : Event) : Except.map (ε := Stop) Ctx.keyFree (.ok ((c.touch [.crc]).emit e)) =
      Except.map Ctx.keyFree (.ok ((d.touch [.crc]).emit e)) := congrArg Except.ok (Ctx.keyFree_emit h _ e)
  by_cases hv : crc32 p.payload = p.checksum
  case neg =>
    rw [Ctx.handlePacket_badChecksum hv, Ctx.handlePacket_badChecksum hv]
    exact reported _
  by_cases hdata : p.kind = kindData
  case neg =>
    by_cases hack : p.kind = kindAck
    · rw [Ctx.handlePacket_ack hv hack, Ctx.handlePacket_ack hv hack]
      exact reported _
    · rw [Ctx.handlePacket_unknownKind hv hdata hack, Ctx.handlePacket_unknownKind hv hdata hack]
      exact reported _
  have hans := Ctx.txAns_eq_of_keyFree_eq h
  cases ha : c.txAns with
  | nil =>
    rw [Ctx.handlePacket_data_waits hv hdata ha, Ctx.handlePacket_data_waits hv hdata (hans.trans ha)]
  | cons a as =>
    rw [Ctx.handlePacket_data_answered hv hdata ha, Ctx.handlePacket_data_answered hv hdata (hans.trans ha)]
    exact Ctx.deliver_keyFree (Ctx.keyFree_acked h _ _ a as)

/-- The loop finds the same frames under any key: the bytes it deframes are no plaintext. -/
theorem Ctx.rxFrames_keyFree : ∀ (n : Nat) (c d : Ctx), c.keyFree = d.keyFree →
    (Ctx.rxFrames P (some k1) n c).map Ctx.keyFree = (Ctx.rxFrames P (some k2) n d).map Ctx.keyFree
  | 0, c, d, h => congrArg Except.ok h
  | n + 1, c, d, h => by
    have hbuf := Ctx.rxbuf_eq_of_keyFree_eq h
    by_cases hno : noWholeFrame c.rxbuf
    · rw [Ctx.rxFrames_noWholeFrame P _ _ hno, Ctx.rxFrames_noWholeFrame P _ _ (hbuf ▸ hno)]
      exact congrArg Except.ok h
    · obtain ⟨p, m, hd⟩ : ∃ p m, decodePacket c.rxbuf = .ok (p, m) := by simpa [noWholeFrame] using hno
      obtain ⟨hp, -, hb⟩ := decodePacket_ok hd
      rw [Ctx.rxFrames_frameOf_eq_bind hp hb, Ctx.rxFrames_frameOf_eq_bind hp (hbuf.trans hb)]
      exact Turn.map_keyFree_bind (Ctx.handlePacket_keyFree (Ctx.keyFree_rxbuf h _ _)) (Ctx.rxFrames_keyFree n)

theorem Ctx.rxBytes_keyFree (b : Bytes) (c : Ctx) :
    (c.rxBytes P (some k1) b).map Ctx.keyFree = (c.rxBytes P (some k2) b).map Ctx.keyFree := by
  unfold Ctx.rxBytes
  cases P.rxFraming with
  | perRead =>
    cases decodePacket b with
    | error e => rfl
    | ok q => exact Ctx.handlePacket_keyFree rfl
  | reassemble => exact Ctx.rxFrames_keyFree _ _ _ rfl

/-- `KEY` plays no part in RxRead, unless it takes a read and goes on with its bytes (R232, R239 to R242). -/
theorem Ctx.rxRead_eq_rxBytes_or (P : Params) (c : Ctx) :
    (∃ t, ∀ key, c.rxRead P key = t) ∨ ∃ c1 b, ∀ key, c.rxRead P key = Ctx.rxBytes P key b c1 := by
  by_cases hs : c.rxState = .serving
  case neg => exact .inl ⟨.error .waits, fun key => if_pos hs⟩
  cases hin : c.rxIn with
  | nil => exact .inl ⟨.error .waits, fun key => by simp [Ctx.rxRead, Ctx.rxNext, hs, hin]⟩
  | cons m ms =>
    cases m with
    | eof => exact .inl ⟨_, fun key => Ctx.rxRead_eof hs hin⟩
    | readErr => exact .inl ⟨_, fun key => Ctx.rxRead_readErr hs hin⟩
    | read b =>
      by_cases hl : b.length ≤ P.rxBufBytes
      · exact .inr ⟨_, b, fun key => Ctx.rxRead_read hs hin hl⟩
      · exact .inl ⟨.error (.refuses .readTooLong), fun key => by
          simp [Ctx.rxRead, Ctx.rxNext, hs, hin, Nat.not_le.mp hl]⟩

end Sys2Proof.Machine
end

section
/-! Exceptions (60_exceptions.md): the error taxonomy, the acknowledgment timer, and what an error or an event may reveal. -/

namespace Sys2Proof.Machine

open Sys2Proof

/-- Settles O44: a tick of the machine is a tick of each context. -/
theorem tickCountsArmedTimers : Obligations.TickCountsArmedTimers := by
  unfold Obligations.TickCountsArmedTimers
  intro s
  refine ⟨_, rfl, rfl, List.length_map _, fun k c hc => ⟨fun ha ht => ?running, fun hstopped => ?stopped⟩⟩
  case running => rw [State.ctx?_tick hc, Ctx.tick_running ha ht]
  case stopped => rw [State.ctx?_tick hc, Ctx.tick_stopped hstopped]

/-- Settles O45: a reset ends the wait, and a change of a context that keeps waiting is a tick or leaves the timer. -/
theorem timerIsNotReloaded : Obligations.TimerIsNotReloaded := by
  unfold Obligations.TimerIsNotReloaded
  intro s t k c c' h hc hc' hs hw
  obtain ⟨-, -, hctx⟩ := step_ctx h
  obtain ⟨c0, hc0, hchange | ⟨-, discard, rfl⟩⟩ := hctx k c' hc'
  case inr => cases hw
  obtain rfl : c = c0 := Option.some.inj (hc.symm.trans hc0)
  obtain rfl | ⟨harmed, hvalue⟩ := hchange.tick_or_sameTimer hs hw
  · exact ⟨c.tick_timerArmed, c.tick_ackTimer⟩
  · exact ⟨harmed, .inl hvalue⟩

/-- Settles O55: `KEY` plays a part only in the bytes of a read, of which alike contexts stay alike. -/
theorem receiverHidesKey : Obligations.ReceiverHidesKey := by
  unfold Obligations.ReceiverHidesKey
  intro P key1 key2 c
  obtain ⟨t, hkeyless⟩ | ⟨c1, b, hread⟩ := Ctx.rxRead_eq_rxBytes_or P c
  · rw [hkeyless, hkeyless]
  · rw [hread, hread, Turn.publicView_eq_map_keyFree, Turn.publicView_eq_map_keyFree, Ctx.rxBytes_keyFree]

/-- Settles O39: the fourteen rows of the table, each by the definitions of class and cause. -/
theorem errorCodes : Obligations.ErrorCodes := by
  unfold Obligations.ErrorCodes
  decide

end Sys2Proof.Machine
end

section
/-! SUPPORT. What a move can do to a context whose run has ended: its sequencers do not step, its timer stands still, and the
host's commands alone go on at its ports (R321, R322). -/

namespace Sys2Proof.Machine

open Sys2Proof

variable {P : Params} {k : Nat} {s t : State} {c c' : Ctx}

/-! ### What a command takes from the ports it is performed at (R52, R90) -/

/-- A command has been performed at the ports of the context, or waits: answers have gone out on `RSP`, and nothing has been
taken but from `CMD` and `RNG_IN`. -/
structure Ctx.ServesHost (c c' : Ctx) : Prop where
  view : c.OnlyAnswers c'
  rsp : c.rsp <+: c'.rsp
  cmdIn : c'.cmdIn <:+ c.cmdIn
  rngIn : c'.rngIn <:+ c.rngIn
  chunkIn : c'.chunkIn = c.chunkIn
  txAns : c'.txAns = c.txAns
  rxIn : c'.rxIn = c.rxIn

theorem Ctx.ServesHost.refl (c : Ctx) : c.ServesHost c :=
  ⟨.refl c, List.prefix_refl _, List.suffix_refl _, List.suffix_refl _, rfl, rfl, rfl⟩

/-- An answer takes the command from `CMD`, whatever was drawn for it and whatever working registers it wrote. -/
theorem Ctx.servesHost_respond {rs : List RngMsg} (h : rs <:+ c.rngIn) (w : Work) (r : Response) :
    c.ServesHost (Ctx.respond r { c with work := w, rngIn := rs }) :=
  ⟨rfl, ⟨[r], rfl⟩, List.tail_suffix _, h, rfl, rfl, rfl⟩

theorem Ctx.encrypt_servesHost {key : Option Block} {p : Bytes} (h : c.encrypt P key p = .ok c') : c.ServesHost c' := by
  have drawn {m : RngMsg} {rs : List RngMsg} (hin : c.rngIn = m :: rs) : rs <:+ c.rngIn := ⟨[m], hin.symm⟩
  unfold Ctx.encrypt at h
  split at h
  · cases h
  · split at h
    · cases h
    · obtain ⟨rs, hin, rfl⟩ := Ctx.rngDraw_eq_some.mp ‹_›
      cases h
      exact Ctx.servesHost_respond (drawn hin) c.work _
    · obtain ⟨rs, hin, rfl⟩ := Ctx.rngDraw_eq_some.mp ‹_›
      cases h
      exact Ctx.servesHost_respond (drawn hin) (c.work.touch [.cipher]) _

theorem Ctx.decrypt_servesHost {key : Option Block} {d : Bytes} (h : c.decrypt P key d = .ok c') : c.ServesHost c' := by
  unfold Ctx.decrypt at h
  split at h
  · cases h
  · split at h <;> cases h
    · exact Ctx.servesHost_respond (List.suffix_refl _) c.work _
    · exact Ctx.servesHost_respond (List.suffix_refl _) (c.work.touch [.cipher]) _

/-- A turn at the ports of the context `cur` leaves every other context as it is. -/
theorem State.perform_servesHost {f : Ctx → Turn} (hf : ∀ c', f c = .ok c' → c.ServesHost c') (h : s.perform f = .next t)
    (hc : s.ctx? k = some c) (hc' : t.ctx? k = some c') : c' = c ∨ (s.cur = k ∧ c.ServesHost c') := by
  obtain heq | ⟨hk, htook⟩ := State.give_ctx (mark := fun u => { u with started := true }) (fun _ => rfl) h hc hc'
  · exact .inl heq
  · exact .inr ⟨hk, hf c' htook⟩

theorem State.reply_servesHost {r : Response} (h : s.reply r = .next t) (hc : s.ctx? k = some c)
    (hc' : t.ctx? k = some c') : c' = c ∨ (s.cur = k ∧ c.ServesHost c') :=
  State.perform_servesHost (fun _ hr => by cases hr; exact Ctx.servesHost_respond (List.suffix_refl _) c.work r) h hc hc'

theorem State.answer_servesHost {regs : List WorkReg} {r : Response} (h : s.answer regs r = .next t)
    (hc : s.ctx? k = some c) (hc' : t.ctx? k = some c') : c' = c ∨ (s.cur = k ∧ c.ServesHost c') :=
  State.perform_servesHost
    (fun _ hr => by cases hr; exact Ctx.servesHost_respond (List.suffix_refl _) (c.work.touch regs) r) h hc hc'

/-- A start of context `j` is, for a context that is not idle, an answer at the ports of the context `cur` (R190, R230). -/
theorem State.start_servesHost {j : Nat} {d c1 : Ctx} {idle : Prop} [Decidable idle] (hd : s.ctx? j = some d)
    (hbusy : d = c → ¬idle) (h : (if idle then (s.setCtx j c1).reply .started else s.reply .errRefused) = .next t)
    (hc : s.ctx? k = some c) (hc' : t.ctx? k = some c') : c' = c ∨ (s.cur = k ∧ c.ServesHost c') := by
  split at h
  case isFalse => exact State.reply_servesHost h hc hc'
  case isTrue hidle =>
    have hjk : k ≠ j := by
      rintro rfl
      exact hbusy (Option.some.inj (hd.symm.trans hc)) hidle
    exact State.reply_servesHost (s := s.setCtx j c1) h ((State.ctx?_setCtx_ne c1 hjk).trans hc) hc'

/-- What a command makes of a context that has a role: it is performed at its ports, or leaves it as it is. -/
theorem exec_command_servesHost {m : CmdMsg} {i : Instr} (hm : decodeCmd m = .ok i) (hrole : c.role ≠ .none)
    (h : exec i s = .next t) (hc : s.ctx? k = some c) (hc' : t.ctx? k = some c') :
    c' = c ∨ (s.cur = k ∧ c.ServesHost c') := by
  have busy {d : Ctx} {q : Prop} (heq : d = c) : ¬(d.role = .none ∧ q) := fun hidle => hrole (heq ▸ hidle.1)
  obtain ⟨m', hcmd⟩ := decodeCmd_encode_cmd hm
  cases i with
  | data | ackf | unknown => cases hcmd
  | reserved0 | reservedB | reservedC | reservedD | reservedE | reservedF => cases h
  | crc32 | verify | mkack => exact State.answer_servesHost h hc hc'
  | encrypt => exact State.perform_servesHost (fun _ => Ctx.encrypt_servesHost) h hc hc'
  | decrypt => exact State.perform_servesHost (fun _ => Ctx.decrypt_servesHost) h hc hc'
  | encode =>
    simp only [exec, execEncode] at h
    split at h <;> exact State.reply_servesHost h hc hc'
  | decode =>
    simp only [exec, execDecode] at h
    split at h
    · exact State.reply_servesHost h hc hc'
    · exact State.answer_servesHost h hc hc'
  | mkdata =>
    simp only [exec, execMkdata] at h
    split at h
    · exact State.reply_servesHost h hc hc'
    · exact State.answer_servesHost h hc hc'
  | send j =>
    cases hd : s.ctx? j with
    | none => simp [exec, execSend, hd] at h
    | some d =>
      rw [exec_send hd] at h
      exact State.start_servesHost hd busy h hc hc'
  | serve j =>
    cases hd : s.ctx? j with
    | none => simp [exec, execServe, hd] at h
    | some d =>
      rw [exec_serve hd] at h
      exact State.start_servesHost hd busy h hc hc'

theorem State.takeCommand_servesHost {j : Nat} (hrole : c.role ≠ .none) (h : s.takeCommand j = .next t)
    (hc : s.ctx? k = some c) (hc' : t.ctx? k = some c') : c' = c ∨ (j = k ∧ c.ServesHost c') := by
  obtain ⟨d, -, ⟨-, rfl⟩ | ⟨m, ms, i, -, hm, hi⟩⟩ := State.takeCommand_next h
  · exact .inl (Option.some.inj (hc'.symm.trans hc))
  · exact exec_command_servesHost (s := { s with cur := j }) hm hrole hi hc hc'

/-! ### What the environment adds (R277) -/

/-- The context is as it was, but that the environment may have added to its pending inputs. -/
structure Ctx.Offered (c c' : Ctx) : Prop where
  view : c'.view = c.view
  cmdIn : c.cmdIn <+: c'.cmdIn
  rngIn : c.rngIn <+: c'.rngIn
  chunkIn : c.chunkIn <+: c'.chunkIn
  txAns : c.txAns <+: c'.txAns
  rxIn : c.rxIn <+: c'.rxIn

theorem Ctx.Offered.refl (c : Ctx) : c.Offered c :=
  ⟨rfl, List.prefix_refl _, List.prefix_refl _, List.prefix_refl _, List.prefix_refl _, List.prefix_refl _⟩

theorem Ctx.Offered.of_eq (h : c' = c) : c.Offered c' := h ▸ .refl c

theorem State.onCtx_offered {j : Nat} {f : Ctx → Ctx} (hf : c.Offered (f c)) (h : s.onCtx j f = .next t)
    (hc : s.ctx? k = some c) (hc' : t.ctx? k = some c') : c.Offered c' := by
  obtain heq | ⟨-, rfl⟩ := State.onCtx_ctx h hc hc'
  · exact .of_eq heq
  · exact hf

/-! ### A context whose run has ended (R321) -/

/-- The run of a legal context ends in a role, and in no state in which a sequencer step is enabled or the timer runs. -/
theorem Ctx.Legal.of_ended (h : c.Legal P) (he : c.ended = true) :
    c.role ≠ .none ∧ (c.txState ≠ .fetch ∧ c.txState ≠ .awaitingAck ∧ c.txState ≠ .acked) ∧ c.rxState ≠ .serving := by
  have hcases : (c.txState = .done ∨ c.txState = .failed) ∨ c.rxState = .closed := by simpa [Ctx.ended] using he
  obtain ht | hx := hcases
  · obtain ⟨hr, hx⟩ := h.of_tx_active (by obtain ht | ht := ht <;> simp [ht])
    obtain ht | ht := ht <;> simp [hr, ht, hx]
  · obtain ⟨hr, ht⟩ := h.of_rx_active (by simp [hx])
    simp [hr, ht, hx]

/-- A move that neither resets a context whose run has ended nor takes a command at it leaves it to the environment. -/
theorem runMove_offered_of_ended {m : Move} (hl : c.Legal s.params) (he : c.ended = true) (hr : m.resets k = false)
    (hm : m ≠ .host k) (h : runMove m s = .next t) (hc : s.ctx? k = some c) (hc' : t.ctx? k = some c') :
    c.Offered c' := by
  obtain ⟨hrole, ⟨hfetch, hwait, hacked⟩, hserving⟩ := hl.of_ended he
  have turned {j : Nat} {f : Ctx → Turn} (h : s.turn j f = .next t) (hf : f c ≠ .ok c') : c.Offered c' :=
    .of_eq ((State.turn_ctx h hc hc').resolve_right fun htook => hf htook.2)
  cases m with
  | host j =>
    refine .of_eq ((State.takeCommand_servesHost hrole h hc hc').resolve_right ?_)
    rintro ⟨rfl, -⟩
    exact hm rfl
  | sendChunk j => exact turned h fun htook => hfetch (Ctx.sendChunk_took htook).1
  | ackRead j => exact turned h fun htook => hwait (Ctx.ackRead_took htook).1
  | ackTimeout j => exact turned h fun htook => hwait (Ctx.ackTimeout_took htook).1
  | nextChunk j => exact turned h fun htook => hacked (Ctx.nextChunk_took htook).1
  | rxRead j => exact turned h fun htook => hserving (Ctx.rxRead_took htook).1
  | tick =>
    cases h
    rw [State.ctx?_tick hc, Ctx.tick_stopped (.inl (hl.disarmed hwait))] at hc'
    exact .of_eq (Option.some.inj hc').symm
  | resetCtx j discard =>
    refine .of_eq ((State.onCtx_ctx h hc hc').resolve_right ?_)
    rintro ⟨rfl, -⟩
    simp [Move.resets] at hr
  | resetAll => cases hr
  | loadKey key =>
    obtain ⟨-, -, -, rfl⟩ := State.loadKey_next h
    exact .of_eq (Option.some.inj (hc'.symm.trans hc))
  | offerCmd j x => exact State.onCtx_offered { Ctx.Offered.refl c with cmdIn := ⟨[x], rfl⟩ } h hc hc'
  | offerRng j x => exact State.onCtx_offered { Ctx.Offered.refl c with rngIn := ⟨[x], rfl⟩ } h hc hc'
  | offerChunk j x => exact State.onCtx_offered { Ctx.Offered.refl c with chunkIn := ⟨[x], rfl⟩ } h hc hc'
  | answerTx j x => exact State.onCtx_offered { Ctx.Offered.refl c with txAns := ⟨[x], rfl⟩ } h hc hc'
  | offerRx j x => exact State.onCtx_offered { Ctx.Offered.refl c with rxIn := ⟨[x], rfl⟩ } h hc hc'

/-- What a step makes of a context whose run has ended and that it does not reset: the host's move there performs a command at
its ports, and any other leaves it to the environment. -/
theorem step_of_ended (hl : c.Legal s.params) (he : c.ended = true)
    (hr : ∀ m rest, s.sched = m :: rest → m.resets k = false) (h : step s = .next t) (hc : s.ctx? k = some c)
    (hc' : t.ctx? k = some c') :
    ((∀ rest, s.sched ≠ .host k :: rest) ∧ c.Offered c') ∨ ((∃ rest, s.sched = .host k :: rest) ∧ c.ServesHost c') := by
  obtain ⟨hs, rfl⟩ | ⟨m, rest, hs, hm⟩ := step_cases h
  · exact .inl ⟨by simp [hs], .of_eq (Option.some.inj (hc'.symm.trans hc))⟩
  · by_cases hhost : m = .host k
    · subst hhost
      refine .inr ⟨⟨rest, hs⟩, ?_⟩
      obtain rfl | ⟨-, hserved⟩ := State.takeCommand_servesHost (hl.of_ended he).1 hm hc hc'
      · exact .refl _
      · exact hserved
    · have hoffered := runMove_offered_of_ended (s := { s with sched := rest }) hl he (hr m rest hs) hhost hm hc hc'
      exact .inl ⟨by simp [hs, hhost], hoffered⟩

end Sys2Proof.Machine
end

section
/-! SUPPORT. What the two resets make of a state (R300, R301), and the context after a global reset (R302). -/

namespace Sys2Proof.Machine

open Sys2Proof

theorem State.onCtx_of_ctx? {k : Nat} {f : Ctx → Ctx} {s : State} {c : Ctx} (hc : s.ctx? k = some c) :
    s.onCtx k f = .next (s.setCtx k (f c)) := by
  rw [State.onCtx, hc]

theorem State.ctx?_resetAll {k : Nat} {s : State} {c : Ctx} (hc : s.ctx? k = some c) :
    s.resetAll.ctx? k = some c.reset := by
  rw [State.ctx?_eq, State.resetAll_ctxs, List.getElem?_map, ← State.ctx?_eq, hc, Option.map_some]

theorem Ctx.legal_afterReset (P : Params) (unit : Nat) : (Ctx.afterReset unit).Legal P := by
  constructor <;> simp [Ctx.afterReset, seqFirst]

theorem Ctx.stopAndWait_afterReset (unit : Nat) : (Ctx.afterReset unit).StopAndWait :=
  Ctx.stopAndWait_of_txOut_nil rfl (by simp [Ctx.afterReset])

theorem State.mem_reset_ctxs {c : Ctx} (h : c ∈ State.reset.ctxs) : ∃ unit, c = Ctx.afterReset unit := by
  obtain ⟨unit, -, rfl⟩ := List.mem_map.mp h
  exact ⟨unit, rfl⟩

end Sys2Proof.Machine
end

section
/-! Reset, and what ends with a run (70_reset_and_hazards.md). -/

namespace Sys2Proof.Machine

open Sys2Proof

/-- Settles O51: the host's move at the context performs a command at its ports, and every other move leaves the context to the
environment. -/
theorem endedContextsStayEnded : Obligations.EndedContextsStayEnded := by
  unfold Obligations.EndedContextsStayEnded
  intro s t k c c' hs h hc hc' he hr
  obtain ⟨hother, hoffered⟩ | ⟨⟨rest, hhost⟩, hserved⟩ := step_of_ended (hs c (State.ctx?_mem hc)) he hr h hc hc'
  · obtain ⟨hview, hcmd, hrng, hchunk, htx, hrx⟩ := hoffered
    have hrsp : c'.rsp = c.rsp := congrArg Ctx.View.rsp hview
    exact ⟨by rw [hview, hrsp]; rfl, hrsp ▸ List.prefix_refl _, hchunk, htx, hrx, fun _ => ⟨hrsp, hcmd, hrng⟩,
      fun ⟨rest, hhost⟩ => absurd hhost (hother rest)⟩
  · obtain ⟨hview, hrsp, hcmd, hrng, hchunk, htx, hrx⟩ := hserved
    exact ⟨hview, hrsp, hchunk ▸ List.prefix_refl _, htx ▸ List.prefix_refl _, hrx ▸ List.prefix_refl _,
      fun hother => absurd hhost (hother rest), fun _ => ⟨hcmd, hrng⟩⟩

/-- Settles O57: a context reset replaces one context, a global reset every one, by one whose registers are those of R39. -/
theorem resetRestores : Obligations.ResetRestores := by
  unfold Obligations.ResetRestores
  intro k discard s c hc
  refine ⟨⟨_, State.onCtx_of_ctx? hc, rfl, List.length_set, fun j hj => State.ctx?_setCtx_ne _ hj, ?one⟩,
    ⟨_, rfl, rfl, rfl, ?all⟩⟩
  case one => exact ⟨c.disconnect discard, State.ctx?_setCtx_self hc, rfl, rfl⟩
  case all => exact ⟨c.reset, State.ctx?_resetAll hc, rfl, rfl⟩

/-- Settles O58: every context after reset is legal and has written nothing. -/
theorem invariantsHoldAtReset : Obligations.InvariantsHoldAtReset := by
  unfold Obligations.InvariantsHoldAtReset
  refine ⟨fun c hc => ?legal, fun c hc => ?stopAndWait⟩ <;> obtain ⟨unit, rfl⟩ := State.mem_reset_ctxs hc
  case legal => exact Ctx.legal_afterReset _ unit
  case stopAndWait => exact Ctx.stopAndWait_afterReset unit

end Sys2Proof.Machine
end
